-- ==== Sys2Proof/Word.lean ====
section
/-! DEFINITION. The plain types of MIPS-X (spec rules R7, R9, R20, R37): the 32-bit word, the byte, and the numbers
of the general and floating point registers. Bits are numbered here from the least significant bit, as the square
brackets of rule R9. -/

namespace Sys2Proof

/-- A 32-bit word: register contents, PC values (word addresses, rule R24), data addresses (byte addresses, rule R63)
and instructions (rule R90). -/
abbrev Word := BitVec 32

/-- One memory location (rule R60). -/
abbrev Byte := BitVec 8

/-- The number of a general register, `r0` to `r31` (rule R20). -/
abbrev Reg := Fin 32

/-- The number of a floating point register, `f0` to `f15` (rules R37, R251). -/
abbrev FReg := Fin 16

/-- The number of a memory word: the top 30 bits of a byte address, all that leaves the chip (rule R63). -/
abbrev WordNumber := BitVec 30

end Sys2Proof
end

