-- ==== Sys2Proof/Syntax.lean ====
section
/-! DEFINITION. The instructions of MIPS-X: one constructor for every row of spec/opcode_table.json, operands in the
order of the assembler (rules R282, R292), the destination last. Register numbers and operation codes are taken apart
here, so that the machine never sees a raw encoding. -/

namespace Sys2Proof

/-- The special registers `movfrs` reads (rule R35). -/
inductive SpecSrc where
  | psw | md | pcm4
  deriving DecidableEq, Repr

/-- The special registers `movtos` writes (rule R35). -/
inductive SpecDst where
  | psw | md | pcm1
  deriving DecidableEq, Repr

/-- Why a word is no instruction (rules R106 to R113). -/
inductive Reserved where
  /-- a branch with Cond 000 or 100 (rule R107) -/
  | branchCondUnused
  /-- a compute instruction whose OP is not in the opcode map (rule R108) -/
  | computeOpUnassigned
  /-- a compute instruction whose Comp Func is not one listed for its OP (rule R109) -/
  | compFuncUnassigned
  /-- a field that the opcode map requires to be zero is not (rule R110) -/
  | mustBeZero
  /-- TY = 11 with OP = 001 (rules R111, R240) -/
  | opUnused
  /-- `movfrs` or `movtos` with a Spec that names no register (rule R112) -/
  | specUnassigned
  /-- `asr` or `sh` with a dddd that is not one-hot (rule R113) -/
  | shiftNotOneHot
  /-- fewer than the four bytes of an instruction were given (rule R90) -/
  | truncated
  deriving DecidableEq, Repr

/-- An instruction. -/
inductive Instr where
  -- memory instructions (rules R160 to R169)
  | ld (offset : BitVec 17) (src1 dest : Reg)
  | st (offset : BitVec 17) (src1 src2 : Reg)
  | ldf (offset : BitVec 17) (src1 : Reg) (dest : FReg)
  | stf (offset : BitVec 17) (src1 : Reg) (src2 : FReg)
  | ldt (offset : BitVec 17) (src1 dest : Reg)
  | stt (offset : BitVec 17) (src1 src2 : Reg)
  | movfrc (copI : BitVec 17) (src1 dest : Reg)
  | movtoc (copI : BitVec 17) (src1 src2 : Reg)
  | aluc (copI : BitVec 17) (src1 : Reg)
  -- branches (rules R182 to R187), without and with SQ
  | beq (src1 src2 : Reg) (disp : BitVec 16)
  | beqsq (src1 src2 : Reg) (disp : BitVec 16)
  | bge (src1 src2 : Reg) (disp : BitVec 16)
  | bgesq (src1 src2 : Reg) (disp : BitVec 16)
  | bhs (src1 src2 : Reg) (disp : BitVec 16)
  | bhssq (src1 src2 : Reg) (disp : BitVec 16)
  | blo (src1 src2 : Reg) (disp : BitVec 16)
  | blosq (src1 src2 : Reg) (disp : BitVec 16)
  | blt (src1 src2 : Reg) (disp : BitVec 16)
  | bltsq (src1 src2 : Reg) (disp : BitVec 16)
  | bne (src1 src2 : Reg) (disp : BitVec 16)
  | bnesq (src1 src2 : Reg) (disp : BitVec 16)
  -- compute instructions (rules R201 to R218)
  | add (src1 src2 dest : Reg)
  | dstep (src1 src2 dest : Reg)
  | mstart (src2 dest : Reg)
  | mstep (src1 src2 dest : Reg)
  | sub (src1 src2 dest : Reg)
  | subnc (src1 src2 dest : Reg)
  | and (src1 src2 dest : Reg)
  | bic (src1 src2 dest : Reg)
  | not (src1 dest : Reg)
  | or (src1 src2 dest : Reg)
  | xor (src1 src2 dest : Reg)
  | mov (src1 dest : Reg)
  /-- `amount` is the assembler's shift amount, 1 to 32 (rule R98). -/
  | asr (src1 dest : Reg) (amount : Nat)
  | rotlb (src1 src2 dest : Reg)
  | rotlcb (src1 src2 dest : Reg)
  /-- `amount` is the assembler's shift amount, 1 to 32 (rule R98). -/
  | sh (src1 src2 dest : Reg) (amount : Nat)
  | nop
  -- compute immediate instructions (rules R230 to R240)
  | addi (src1 : Reg) (immed : BitVec 17) (dest : Reg)
  | jpc
  | jpcrs
  | jspci (src1 : Reg) (immed : BitVec 17) (dest : Reg)
  | movfrs (spec : SpecSrc) (dest : Reg)
  | movtos (src1 : Reg) (spec : SpecDst)
  /-- `vector` is the vector itself; its encoding holds the one's complement (rule R99). -/
  | trap (vector : BitVec 8)
  | hsc
  -- floating point instructions (rules R254 to R264)
  | fadd (f1 f2 : FReg)
  | fsub (f1 f2 : FReg)
  | fmul (f1 f2 : FReg)
  | fdiv (f1 f2 : FReg)
  | cvtif (f1 f2 : FReg)
  | cvtfi (f1 f2 : FReg)
  | imul (f1 f2 : FReg)
  | idiv (f1 f2 : FReg)
  | mod (f1 f2 : FReg)
  | movif (src2 : Reg) (f1 : FReg)
  | movfi (f1 : FReg) (dest : Reg)
  deriving DecidableEq, Repr

end Sys2Proof
end

