-- ==== Sys2Proof/WellFormed.lean ====
section
/-! DEFINITION. Which terms of `Instr` stand for a word of their own. An instruction whose word the opcode map gives
to a narrower row (rules R100, R105) is not well formed under the wider name, and a shift amount must be one the
encoding has (rule R98). -/

namespace Sys2Proof

/-- The CopI is one of the FPU's compute instructions: COP# = 0 with Func 0 to 8 (rules R114, R254 to R262). -/
def copIsFpuCompute (c : BitVec 17) : Bool :=
  c.extractLsb' 14 3 == 0#3 && decide ((c.extractLsb' 8 6).toNat ≤ 8)

/-- The CopI is that of `movif`: COP# = 0, Func = 001001, CS1 = 0 (rule R263). -/
def copIsMovif (c : BitVec 17) : Bool :=
  c.extractLsb' 4 13 == 0x90#13

/-- The CopI is that of `movfi`: COP# = 0, Func = 001010, CS2 = 0 (rule R264). -/
def copIsMovfi (c : BitVec 17) : Bool :=
  c.extractLsb' 8 9 == 0x00A#9 && c.extractLsb' 0 4 == 0#4

/-- A shift amount of `asr` and `sh` is 1 to 32 (rules R98, R213). -/
def shiftAmountValid (n : Nat) : Bool := decide (1 ≤ n) && decide (n ≤ 32)

/-- The instruction stands for a word of its own. -/
def Instr.wf : Instr → Bool
  | .ld _ _ _ => true
  | .st _ _ _ => true
  | .ldf _ _ _ => true
  | .stf _ _ _ => true
  | .ldt _ _ _ => true
  | .stt _ _ _ => true
  | .movfrc c s d => d != 0 && !(s == 0 && copIsMovfi c)
  | .movtoc c s _ => !(s == 0 && copIsMovif c)
  | .aluc c s => !(s == 0 && copIsFpuCompute c)
  | .beq _ _ _ => true
  | .beqsq _ _ _ => true
  | .bge _ _ _ => true
  | .bgesq _ _ _ => true
  | .bhs _ _ _ => true
  | .bhssq _ _ _ => true
  | .blo _ _ _ => true
  | .blosq _ _ _ => true
  | .blt _ _ _ => true
  | .bltsq _ _ _ => true
  | .bne _ _ _ => true
  | .bnesq _ _ _ => true
  | .add _ b _ => b != 0
  | .dstep _ _ _ => true
  | .mstart _ _ => true
  | .mstep _ _ _ => true
  | .sub _ _ _ => true
  | .subnc _ _ _ => true
  | .and _ _ _ => true
  | .bic _ _ _ => true
  | .not _ _ => true
  | .or _ _ _ => true
  | .xor _ _ _ => true
  | .mov a d => !(a == 0 && d == 0)
  | .asr _ _ n => shiftAmountValid n
  | .rotlb _ _ _ => true
  | .rotlcb _ _ _ => true
  | .sh _ _ _ n => shiftAmountValid n
  | .nop => true
  | .addi _ _ _ => true
  | .jpc => true
  | .jpcrs => true
  | .jspci _ _ _ => true
  | .movfrs _ _ => true
  | .movtos _ _ => true
  | .trap _ => true
  | .hsc => true
  | .fadd _ _ => true
  | .fsub _ _ => true
  | .fmul _ _ => true
  | .fdiv _ _ => true
  | .cvtif _ _ => true
  | .cvtfi _ _ => true
  | .imul _ _ => true
  | .idiv _ _ => true
  | .mod _ _ => true
  | .movif _ _ => true
  | .movfi _ d => d != 0

end Sys2Proof
end

