-- ==== Sys2Proof/Decode.lean ====
section
/-! DEFINITION. The decoder and the encoder (rules R90 to R114). Decoding is total on words and on byte lists and
rejects by name; where two rows of the opcode map overlap the narrower row's constructor is answered (rules R100,
R105). The encoder after it is written from the same formats. -/

namespace Sys2Proof

/-! ## Fields -/

/-- The `len` bits of `w` from bit `lo` up: `w[lo+len-1 : lo]` (rule R9). -/
def field (w : Word) (lo len : Nat) : BitVec len := w.extractLsb' lo len

/-- The register a 5-bit field names (rule R91). -/
def fieldReg (w : Word) (lo : Nat) : Reg := (field w lo 5).toFin

/-- The floating point register a 4-bit field names (rule R252). -/
def fieldFReg (w : Word) (lo : Nat) : FReg := (field w lo 4).toFin

/-- Register number to 5-bit field. -/
def regBits (r : Reg) : BitVec 5 := BitVec.ofFin r

/-- Floating point register number to 4-bit field. -/
def fregBits (f : FReg) : BitVec 4 := BitVec.ofFin f

/-! ## The shift amount of `asr` and `sh` (rules R98, R213) -/

/-- The index of the single 1 of `dddd`; none where `dddd` is not one-hot (rule R113). -/
def oneHotIndex (d : BitVec 4) : Option Nat :=
  match d with
  | 0b0001#4 => some 0
  | 0b0010#4 => some 1
  | 0b0100#4 => some 2
  | 0b1000#4 => some 3
  | _ => none

/-- From `bbb dddd`: `n = 4*bbb + j`, amount `32 - n` (rule R98). -/
def shiftAmount (f : BitVec 7) : Option Nat :=
  (oneHotIndex (f.extractLsb' 0 4)).map fun j => 32 - (4 * (f.extractLsb' 4 3).toNat + j)

/-- `32 - s` as `bbb ef`, with `ef` fully decoded to `dddd` (rule R98). -/
def shiftField (s : Nat) : BitVec 7 :=
  BitVec.ofNat 3 ((32 - s) / 4) ++ (0b0001#4 <<< ((32 - s) % 4))

/-! ## The CopI layout (rule R114) -/

/-- CopI of an FPU instruction: COP# = 0, Func, CS1, CS2/CD. -/
def fpuCopI (func : BitVec 6) (cs1 cs2 : FReg) : BitVec 17 :=
  0b000#3 ++ func ++ fregBits cs1 ++ fregBits cs2

/-! ## The decoder (rule R104) -/

/-- OP = 101 of the memory type: `movfrc` and the rows within it (rules R105, R167, R169, R254 to R262, R264). -/
def decodeMovfrc (w : Word) : Instr :=
  let c := field w 0 17
  let s := fieldReg w 22
  let d := fieldReg w 17
  let f1 := fieldFReg w 4
  let f2 := fieldFReg w 0
  if d = 0 then
    if s = 0 && copIsFpuCompute c then
      match field w 8 6 with
      | 0#6 => .fadd f1 f2
      | 1#6 => .fsub f1 f2
      | 2#6 => .fmul f1 f2
      | 3#6 => .fdiv f1 f2
      | 4#6 => .cvtif f1 f2
      | 5#6 => .cvtfi f1 f2
      | 6#6 => .imul f1 f2
      | 7#6 => .idiv f1 f2
      | _ => .mod f1 f2
    else .aluc c s
  else if s = 0 && copIsMovfi c then .movfi f1 d
  else .movfrc c s d

/-- OP = 111 of the memory type: `movtoc` and `movif` within it (rules R168, R263). -/
def decodeMovtoc (w : Word) : Instr :=
  let c := field w 0 17
  let s := fieldReg w 22
  let t := fieldReg w 17
  if s = 0 && copIsMovif c then .movif t (fieldFReg w 0) else .movtoc c s t

/-- TY = 10 (rule R92): every word is an instruction. `ldf` and `stf` use the low four bits of the register field
(rule R252). -/
def decodeMemory (w : Word) : Instr :=
  let off := field w 0 17
  let s := fieldReg w 22
  let r := fieldReg w 17
  match field w 27 3 with
  | 0b000#3 => .ld off s r
  | 0b001#3 => .ldt off s r
  | 0b010#3 => .st off s r
  | 0b011#3 => .stt off s r
  | 0b100#3 => .ldf off s (fieldFReg w 17)
  | 0b101#3 => decodeMovfrc w
  | 0b110#3 => .stf off s (fieldFReg w 17)
  | _ => decodeMovtoc w

/-- TY = 00 (rules R93, R107). -/
def decodeBranch (w : Word) : Except Reserved Instr :=
  let s := fieldReg w 22
  let t := fieldReg w 17
  let sq := field w 16 1
  let disp := field w 0 16
  match field w 27 3 with
  | 0b001#3 => .ok (if sq = 0#1 then .beq s t disp else .beqsq s t disp)
  | 0b010#3 => .ok (if sq = 0#1 then .bhs s t disp else .bhssq s t disp)
  | 0b011#3 => .ok (if sq = 0#1 then .blt s t disp else .bltsq s t disp)
  | 0b101#3 => .ok (if sq = 0#1 then .bne s t disp else .bnesq s t disp)
  | 0b110#3 => .ok (if sq = 0#1 then .blo s t disp else .blosq s t disp)
  | 0b111#3 => .ok (if sq = 0#1 then .bge s t disp else .bgesq s t disp)
  | _ => .error .branchCondUnused

/-- TY = 01, OP = 100: the ALU instructions (rules R94, R100, R109, R110). -/
def decodeAlu (w : Word) : Except Reserved Instr :=
  let s := fieldReg w 22
  let t := fieldReg w 17
  let d := fieldReg w 12
  match field w 0 12 with
  | 0x019#12 =>
    if t = 0 then (if s = 0 && d = 0 then .ok .nop else .ok (.mov s d)) else .ok (.add s t d)
  | 0x066#12 => .ok (.sub s t d)
  | 0x026#12 => .ok (.subnc s t d)
  | 0x023#12 => .ok (.and s t d)
  | 0x00B#12 => .ok (.bic s t d)
  | 0x00F#12 => if t = 0 then .ok (.not s d) else .error .mustBeZero
  | 0x03B#12 => .ok (.or s t d)
  | 0x01B#12 => .ok (.xor s t d)
  | _ => .error .compFuncUnassigned

/-- TY = 01, OP = 000: the step instructions. -/
def decodeMulDiv (w : Word) : Except Reserved Instr :=
  let s := fieldReg w 22
  let t := fieldReg w 17
  let d := fieldReg w 12
  match field w 0 12 with
  | 0x166#12 => .ok (.dstep s t d)
  | 0x0E6#12 => if s = 0 then .ok (.mstart t d) else .error .mustBeZero
  | 0x099#12 => .ok (.mstep s t d)
  | _ => .error .compFuncUnassigned

/-- TY = 01, OP = 001: the shifter instructions. -/
def decodeShift (w : Word) : Except Reserved Instr :=
  let s := fieldReg w 22
  let t := fieldReg w 17
  let d := fieldReg w 12
  match field w 7 5 with
  | 0b00010#5 =>
    if t = 0 then
      match shiftAmount (field w 0 7) with
      | some n => .ok (.asr s d n)
      | none => .error .shiftNotOneHot
    else .error .mustBeZero
  | 0b00100#5 =>
    match shiftAmount (field w 0 7) with
    | some n => .ok (.sh s t d n)
    | none => .error .shiftNotOneHot
  | 0b00001#5 =>
    match field w 0 7 with
    | 0b1000000#7 => .ok (.rotlb s t d)
    | 0b0000000#7 => .ok (.rotlcb s t d)
    | _ => .error .compFuncUnassigned
  | _ => .error .compFuncUnassigned

/-- TY = 01 (rules R94, R108). -/
def decodeCompute (w : Word) : Except Reserved Instr :=
  match field w 27 3 with
  | 0b000#3 => decodeMulDiv w
  | 0b001#3 => decodeShift w
  | 0b100#3 => decodeAlu w
  | _ => .error .computeOpUnassigned

/-- TY = 11, OP = 011 (rules R110, R112, R234). -/
def decodeMovfrs (w : Word) : Except Reserved Instr :=
  if field w 22 5 = 0#5 ∧ field w 3 14 = 0#14 then
    match field w 0 3 with
    | 0b001#3 => .ok (.movfrs .psw (fieldReg w 17))
    | 0b010#3 => .ok (.movfrs .md (fieldReg w 17))
    | 0b100#3 => .ok (.movfrs .pcm4 (fieldReg w 17))
    | _ => .error .specUnassigned
  else .error .mustBeZero

/-- TY = 11, OP = 010 (rules R110, R112, R235). -/
def decodeMovtos (w : Word) : Except Reserved Instr :=
  if field w 3 19 = 0#19 then
    match field w 0 3 with
    | 0b001#3 => .ok (.movtos (fieldReg w 22) .psw)
    | 0b010#3 => .ok (.movtos (fieldReg w 22) .md)
    | 0b100#3 => .ok (.movtos (fieldReg w 22) .pcm1)
    | _ => .error .specUnassigned
  else .error .mustBeZero

/-- TY = 11 (rules R95, R111). The vector of `trap` is the one's complement of its field (rule R99). -/
def decodeImmediate (w : Word) : Except Reserved Instr :=
  match field w 27 3 with
  | 0b000#3 => .ok (.jspci (fieldReg w 22) (field w 0 17) (fieldReg w 17))
  | 0b001#3 => if field w 0 27 = 0x7C00000#27 then .ok .hsc else .error .opUnused
  | 0b010#3 => decodeMovtos w
  | 0b011#3 => decodeMovfrs w
  | 0b100#3 => .ok (.addi (fieldReg w 22) (field w 0 17) (fieldReg w 17))
  | 0b101#3 => if field w 0 27 = 3#27 then .ok .jpc else .error .mustBeZero
  | 0b110#3 =>
    if field w 11 16 = 0#16 ∧ field w 0 3 = 3#3 then .ok (.trap (~~~(field w 3 8)))
    else .error .mustBeZero
  | _ => if field w 0 27 = 3#27 then .ok .jpcrs else .error .mustBeZero

/-- The decoder: by TY (rules R90, R104). -/
def decode (w : Word) : Except Reserved Instr :=
  match field w 30 2 with
  | 0b00#2 => decodeBranch w
  | 0b01#2 => decodeCompute w
  | 0b10#2 => .ok (decodeMemory w)
  | _ => decodeImmediate w

/-- Four bytes, the first at the lowest address, as one word, big endian (rules R10, R61). -/
def wordOfBytes (b0 b1 b2 b3 : BitVec 8) : Word := b0 ++ b1 ++ b2 ++ b3

/-- The bytes of a word in the order of their addresses (rules R10, R61). -/
def bytesOfWord (w : Word) : List (BitVec 8) := [field w 24 8, field w 16 8, field w 8 8, field w 0 8]

/-- The decoder on bytes, lowest address first; bytes after the fourth belong to the next instruction. -/
def decodeBytes : List (BitVec 8) → Except Reserved Instr
  | b0 :: b1 :: b2 :: b3 :: _ => decode (wordOfBytes b0 b1 b2 b3)
  | _ => .error .truncated

/-- The instruction the decoder reads from an instruction whose bits are `w`, bit 0 the least significant; the bits
from `nbits` up are 0. -/
def decodeTableWord (nbits w : Nat) : Option Instr :=
  match decodeBytes (bytesOfWord (BitVec.ofNat 32 (w % 2 ^ nbits))) with
  | .ok i => some i
  | .error _ => none

/-! ## The encoder (rules R92 to R95) -/

/-- The memory format (rule R92). -/
def packMemory (op : BitVec 3) (src1 : Reg) (r : BitVec 5) (imm : BitVec 17) : Word :=
  0b10#2 ++ op ++ regBits src1 ++ r ++ imm

/-- The branch format (rule R93). -/
def packBranch (cond : BitVec 3) (src1 src2 : Reg) (sq : BitVec 1) (disp : BitVec 16) : Word :=
  0b00#2 ++ cond ++ regBits src1 ++ regBits src2 ++ sq ++ disp

/-- The compute format (rule R94). -/
def packCompute (op : BitVec 3) (src1 src2 dest : Reg) (func : BitVec 12) : Word :=
  0b01#2 ++ op ++ regBits src1 ++ regBits src2 ++ regBits dest ++ func

/-- The compute immediate format (rule R95); the shape B instructions put their fixed bits in the immediate. -/
def packImmediate (op : BitVec 3) (src1 dest : Reg) (immed : BitVec 17) : Word :=
  0b11#2 ++ op ++ regBits src1 ++ regBits dest ++ immed

/-- The Spec code `movfrs` holds (rule R35). -/
def specSrcBits : SpecSrc → BitVec 17
  | .psw => 0b001#17
  | .md => 0b010#17
  | .pcm4 => 0b100#17

/-- The Spec code `movtos` holds (rule R35). -/
def specDstBits : SpecDst → BitVec 17
  | .psw => 0b001#17
  | .md => 0b010#17
  | .pcm1 => 0b100#17

/-- An FPU compute instruction: the word of `aluc` with its CopI (rules R114, R254 to R262). -/
def packFpu (func : BitVec 6) (f1 f2 : FReg) : Word := packMemory 0b101#3 0 0#5 (fpuCopI func f1 f2)

/-- The word of an instruction (rule R100). -/
def encode : Instr → Word
  | .ld o s d => packMemory 0b000#3 s (regBits d) o
  | .st o s t => packMemory 0b010#3 s (regBits t) o
  | .ldf o s d => packMemory 0b100#3 s (0#1 ++ fregBits d) o
  | .stf o s t => packMemory 0b110#3 s (0#1 ++ fregBits t) o
  | .ldt o s d => packMemory 0b001#3 s (regBits d) o
  | .stt o s t => packMemory 0b011#3 s (regBits t) o
  | .movfrc c s d => packMemory 0b101#3 s (regBits d) c
  | .movtoc c s t => packMemory 0b111#3 s (regBits t) c
  | .aluc c s => packMemory 0b101#3 s 0#5 c
  | .beq s t i => packBranch 0b001#3 s t 0#1 i
  | .beqsq s t i => packBranch 0b001#3 s t 1#1 i
  | .bge s t i => packBranch 0b111#3 s t 0#1 i
  | .bgesq s t i => packBranch 0b111#3 s t 1#1 i
  | .bhs s t i => packBranch 0b010#3 s t 0#1 i
  | .bhssq s t i => packBranch 0b010#3 s t 1#1 i
  | .blo s t i => packBranch 0b110#3 s t 0#1 i
  | .blosq s t i => packBranch 0b110#3 s t 1#1 i
  | .blt s t i => packBranch 0b011#3 s t 0#1 i
  | .bltsq s t i => packBranch 0b011#3 s t 1#1 i
  | .bne s t i => packBranch 0b101#3 s t 0#1 i
  | .bnesq s t i => packBranch 0b101#3 s t 1#1 i
  | .add s t d => packCompute 0b100#3 s t d 0b000000011001#12
  | .dstep s t d => packCompute 0b000#3 s t d 0b000101100110#12
  | .mstart t d => packCompute 0b000#3 0 t d 0b000011100110#12
  | .mstep s t d => packCompute 0b000#3 s t d 0b000010011001#12
  | .sub s t d => packCompute 0b100#3 s t d 0b000001100110#12
  | .subnc s t d => packCompute 0b100#3 s t d 0b000000100110#12
  | .and s t d => packCompute 0b100#3 s t d 0b000000100011#12
  | .bic s t d => packCompute 0b100#3 s t d 0b000000001011#12
  | .not s d => packCompute 0b100#3 s 0 d 0b000000001111#12
  | .or s t d => packCompute 0b100#3 s t d 0b000000111011#12
  | .xor s t d => packCompute 0b100#3 s t d 0b000000011011#12
  | .mov s d => packCompute 0b100#3 s 0 d 0b000000011001#12
  | .asr s d n => packCompute 0b001#3 s 0 d (0b00010#5 ++ shiftField n)
  | .rotlb s t d => packCompute 0b001#3 s t d 0b000011000000#12
  | .rotlcb s t d => packCompute 0b001#3 s t d 0b000010000000#12
  | .sh s t d n => packCompute 0b001#3 s t d (0b00100#5 ++ shiftField n)
  | .nop => packCompute 0b100#3 0 0 0 0b000000011001#12
  | .addi s i d => packImmediate 0b100#3 s d i
  | .jpc => packImmediate 0b101#3 0 0 3#17
  | .jpcrs => packImmediate 0b111#3 0 0 3#17
  | .jspci s i d => packImmediate 0b000#3 s d i
  | .movfrs r d => packImmediate 0b011#3 0 d (specSrcBits r)
  | .movtos s r => packImmediate 0b010#3 s 0 (specDstBits r)
  | .trap v => packImmediate 0b110#3 0 0 (0#6 ++ ~~~v ++ 0b011#3)
  | .hsc => packImmediate 0b001#3 31 0 0#17
  | .fadd a b => packFpu 0#6 a b
  | .fsub a b => packFpu 1#6 a b
  | .fmul a b => packFpu 2#6 a b
  | .fdiv a b => packFpu 3#6 a b
  | .cvtif a b => packFpu 4#6 a b
  | .cvtfi a b => packFpu 5#6 a b
  | .imul a b => packFpu 6#6 a b
  | .idiv a b => packFpu 7#6 a b
  | .mod a b => packFpu 8#6 a b
  | .movif t f => packMemory 0b111#3 0 (regBits t) (fpuCopI 9#6 0 f)
  | .movfi f d => packMemory 0b101#3 0 (regBits d) (fpuCopI 10#6 f 0)

end Sys2Proof
end

