-- ==== Sys2Proof/Config.lean ====
section
/-! DEFINITION. What an implementation fixes and what the spec leaves open (rule R8, files 92 and 93).

Two kinds of thing stand here. The parameters that are plain data (`Params`) are carried in the machine's state, which
no step changes in that part, so that a statement over every state is a statement over every value of them. The values
that no source gives are opaque constants: nothing in Lean can evaluate one, so a statement that holds, holds whatever
they are. -/

namespace Sys2Proof

/-! ## Draws: values a program may not rely on (rules R362, and the "any value" rows of file 93) -/

/-- The places where one step may need a draw. One step never uses one of these twice, and the state's `tick` is
different at every step, so every occurrence is a value of its own. -/
inductive Draw where
  /-- a hazardous read of the Src1 register (rules R351, R357) -/
  | src1
  /-- a hazardous read of the Src2 register (rules R351, R357) -/
  | src2
  /-- a hazardous read of the first floating point operand (rule R351) -/
  | fsrc1
  /-- a hazardous read of the second floating point operand (rule R351) -/
  | fsrc2
  /-- the register result of a hazardous instruction (rules R352, R355, R357) -/
  | dest
  /-- the MD that a hazardous `mstart`, `mstep`, `dstep` leaves (rules R355, R357) -/
  | md
  /-- the MD that a hazardous instruction sees (rules R355, R357) -/
  | mdIn
  /-- the word a load finds where cached and through accesses were mixed (rule R76) -/
  | load
  /-- the word a fetch finds where the program has stored (rules R76, R78) -/
  | fetch
  /-- the target of a `jpc` or `jpcrs` that reads a refilled chain (rule R139) -/
  | next
  /-- PC-1 where it is unspecified (rules R140, R141, R316) -/
  | c1
  /-- PC-2 where it is unspecified (rule R316) -/
  | c2
  /-- PC-3 where it is unspecified (rule R316) -/
  | c3
  /-- PC-4 where it is unspecified or not determined (rules R315, R316) -/
  | c4
  /-- the unused and E positions of a PSW read (rules R34, R319) -/
  | psw
  /-- the data lines of an undefined FPU cycle (rules R166, R266) -/
  | cop
  /-- FPU register `n` after an FPU cycle with an undefined function (rule R266) -/
  | fpu (n : FReg)
  deriving DecidableEq, Repr

/-- The draw of a given place at a given step. -/
opaque Config.draw : Nat → Draw → Word

/-! ## The interrupt line (parameter `IRQ`, rule R310, decision D11) -/

/-- The level of the interrupt request line at a step boundary for which the state lists no level. -/
opaque Config.irqLevel : Nat → Bool

/-! ## Coprocessors (parameter `COP`, rules R38, R166, decision D13) -/

/-- The three kinds of coprocessor bus cycle (rule R166). -/
inductive CopKind where
  /-- `movfrc`: the coprocessor drives the data lines. -/
  | fromCop
  /-- `movtoc`: the processor drives the data lines. -/
  | toCop
  /-- `aluc`: no data moves. -/
  | alu
  deriving DecidableEq, Repr

/-- One bus cycle as the coprocessors see it: the address word as driven, the data word the processor drives (0 on a
cycle on which it drives none), and PSW.U beside it (rule R166). -/
structure CopCycle where
  kind : CopKind
  addr : Word
  data : Word
  user : Bool
  deriving DecidableEq, Repr

/-- The word on the data lines in the first cycle of the list, the later elements being the cycles before it, latest
first. A coprocessor with any state of its own is a function of what it has been sent, so this one constant stands
for every behaviour of every coprocessor, an absent one among them. -/
opaque Config.copAnswer : List CopCycle → Word

/-! ## The FPU's arithmetic (parameter `FP_NUMERICS`, rule R266, decision D14) -/

/-- The nine operations of the FPU (rules R254 to R262). -/
inductive FpOp where
  | fadd | fsub | fmul | fdiv | cvtif | cvtfi | imul | idiv | mod
  deriving DecidableEq, Repr

/-- The result of an operation where no source gives it. The second operand of a conversion is passed as 0. -/
opaque Config.fpOpen : FpOp → Word → Word → Word

/-! ## Overflow of the step instructions (parameter `MD_OVF`, rule R220, decision D8) -/

/-- The three step instructions. -/
inductive MdOp where
  | mstart | mstep | dstep
  deriving DecidableEq, Repr

/-- The overflow predicate of a platform that replaces the spec's default: of the instruction, its two register
operands and MD. -/
opaque Config.mdOvfPlatform : MdOp → Word → Word → Word → Bool

/-- `MD_OVF`: the spec's default, or a platform's own predicate. -/
inductive MdOvf where
  /-- the adder's overflow for `mstart` and `mstep`, never for `dstep` (rule R220) -/
  | adder
  /-- any predicate (`Config.mdOvfPlatform`) -/
  | platform
  deriving DecidableEq, Repr

/-! ## The map from PC values to memory words (parameter `IMAP`, rule R72, decision D3) -/

/-- The map of a platform that replaces the spec's default, of the PC value. -/
opaque Config.imapPlatform : Word → WordNumber

/-- `IMAP`: the spec's default, or any other total map. -/
inductive FetchMap where
  /-- word number `pc mod 2^30`, that is byte address `(pc << 2) mod 2^32` -/
  | shifted
  /-- any total map (`Config.imapPlatform`) -/
  | platform
  deriving DecidableEq, Repr

/-! ## The external cache (parameter `CACHE_VISIBLE`, rule R76, decision D5) -/

/-- Which way an access goes: through the external cache, or past it to main memory (rules R75, R76). -/
inductive Path where
  | cached
  | through
  deriving DecidableEq, Repr

/-- One store as the memory system sees it. -/
structure StoreCycle where
  path : Path
  word : WordNumber
  data : Word
  deriving DecidableEq, Repr

/-- The cache model of a platform: what an access finds in a word that the other path has stored to, of the step (which
stands for whatever loads and fetches have brought into the cache), the stores so far, latest first, the path and word
of the access, and what memory holds there. -/
opaque Config.cacheModel : Nat → List StoreCycle → Path → WordNumber → Word → Word

/-- `CACHE_VISIBLE`: whether through and cached accesses to one word may be mixed. -/
inductive CacheVisible where
  /-- they may not: such a program is outside the spec's model, and finds draws in this one (notes/assumptions/7.md) -/
  | refused
  /-- they may: the platform supplies the cache model (`Config.cacheModel`) -/
  | platform
  deriving DecidableEq, Repr

/-! ## The instruction cache (rules R78, R79, decision D15) -/

/-- The one of the 32 buffers that an instruction goes to, of the six bits of its PC value that index the cache
(`PC<26..31>`); the geometry is not given. -/
opaque Config.cacheBuffer : BitVec 6 → Fin 32

/-! ## Which instructions can raise the overflow trap (parameter `OVF_SET`, rule R200, decision D7) -/

/-- The seven instructions that the default `OVF_SET` holds. -/
inductive OvfInstr where
  | add | addi | sub | subnc | mstart | mstep | dstep
  deriving DecidableEq, Repr

/-- `OVF_SET`, the default or a narrower one. -/
structure OvfSet where
  add : Bool := true
  addi : Bool := true
  sub : Bool := true
  subnc : Bool := true
  mstart : Bool := true
  mstep : Bool := true
  dstep : Bool := true
  deriving DecidableEq, Repr

/-! ## The places of the PSW fields (parameter `PSW_LAYOUT`, rule R31, decision D1) -/

/-- The bit number, from the least significant bit, of each PSW field. Upper-case letters are PSWcurrent and
lower-case letters PSWother, as rule R30 has them. The positions that no field takes are the unused ones and those
of the E chain. -/
structure PswLayout where
  U : Fin 32 := 31
  u : Fin 32 := 30
  O : Fin 32 := 29
  o : Fin 32 := 28
  e : Fin 32 := 8
  v : Fin 32 := 7
  V : Fin 32 := 6
  m : Fin 32 := 5
  M : Fin 32 := 4
  i : Fin 32 := 3
  I : Fin 32 := 2
  s : Fin 32 := 1
  S : Fin 32 := 0
  deriving DecidableEq, Repr

/-- The thirteen positions in one list. -/
def PswLayout.positions (l : PswLayout) : List (Fin 32) :=
  [l.U, l.u, l.O, l.o, l.e, l.v, l.V, l.m, l.M, l.i, l.I, l.s, l.S]

/-- A layout gives every field a position of its own. -/
abbrev PswLayout.WellFormed (l : PswLayout) : Prop := l.positions.Nodup

/-! ## All parameters that are plain data -/

/-- The parameters of rule R8 that are plain data, and the platform's statement of rule R78. The defaults are those of the spec; `HAS_FPU` has none there and
is true here (DESIGN CHOICE, notes/assumptions/4.md). -/
structure Params where
  /-- `HAS_FPU` -/
  hasFpu : Bool := true
  /-- `E_DEPTH`, at least 3 -/
  eDepth : Nat := 3
  /-- `PSW_LAYOUT` -/
  pswLayout : PswLayout := {}
  /-- `OVF_SET` -/
  ovfSet : OvfSet := {}
  /-- `MD_OVF` -/
  mdOvf : MdOvf := .adder
  /-- `IMAP` -/
  fetchMap : FetchMap := .shifted
  /-- `USER_FETCH_FORCE`, the PC bit that is 1 in a user-state fetch -/
  userFetchForce : Fin 32 := 29
  /-- `LOAD_SLOTS` -/
  loadSlots : Nat := 1
  /-- `CACHE_VISIBLE` -/
  cacheVisible : CacheVisible := .refused
  /-- what a platform may state otherwise for rule R78: instruction fetches see the stores made before them -/
  fetchCoherent : Bool := false
  deriving DecidableEq, Repr

/-- What the spec asks of the parameters: `E_DEPTH` is at least 3 (rule R138) and the PSW fields do not share a
position (rule R31). -/
abbrev Params.WellFormed (p : Params) : Prop := 3 ≤ p.eDepth ∧ p.pswLayout.WellFormed

end Sys2Proof
end

