-- ==== Sys2Proof/Machine/State.lean ====
section
/-! DEFINITION. The state of the machine as plain data, what it is after reset, and the reasons a step can stop
(rules R20 to R42, R131, R138, R351, R355, R357). INVENTORY.md lists every field with its rule and reset value. -/

namespace Sys2Proof.Machine

/-! ## The processor status word (rules R30 to R34) -/

/-- One set of the six PSW bits: PSWcurrent with these letters, PSWother with the small ones (rule R32). -/
structure PswBits where
  /-- 0 after an interrupt entry, 1 after any other exception entry -/
  I : Bool
  /-- interrupt mask: 1, interrupts are not recognised -/
  M : Bool
  /-- 1, user state -/
  U : Bool
  /-- 1, the PC chain shifts -/
  S : Bool
  /-- overflow mask: 1, no trap on overflow -/
  V : Bool
  /-- 1 after the entry of a trap on overflow, 0 after any other exception entry -/
  O : Bool
  deriving DecidableEq, Repr

/-- The PSW: PSWcurrent, PSWother and the `e` bit (rules R30, R33). -/
structure Psw where
  cur : PswBits
  oth : PswBits
  e : Bool
  deriving DecidableEq, Repr

/-! ## The PC chain and the fetch queue (rules R26, R131) -/

/-- The PC chain, PC-1 to PC-4 (rule R26). -/
structure PcChain where
  c1 : Word
  c2 : Word
  c3 : Word
  c4 : Word
  deriving DecidableEq, Repr

/-- One entry of the fetch queue (rule R131): a word address, the state under which its fetch was issued (rule R133)
and the squash mark (rule R136). -/
structure QEntry where
  addr : Word
  user : Bool
  squashed : Bool
  deriving DecidableEq, Repr

/-! ## Hazard shadows (rules R351, R355, R357) -/

/-- A register in the load-slot shadow (rule R351). -/
inductive Loaded where
  | gpr (r : Reg)
  | fpr (f : FReg)
  deriving DecidableEq, Repr

/-- How near the last entry of an interrupt or an overflow trap is (rule R357). -/
inductive EntryWindow where
  /-- the next instruction is the first of the handler -/
  | first
  /-- the next instruction is the second of the handler -/
  | second
  /-- neither -/
  | closed
  deriving DecidableEq, Repr

/-! ## The instruction cache (rules R40, R78, R79) -/

/-- A word the program has stored to, of which the instruction cache may hold an older copy (rule R78). -/
structure StaleWord where
  word : WordNumber
  /-- the steps since the last store to it -/
  age : Nat
  /-- the cache indices `PC<26..31>` of the system-space instructions fetched since (rule R79) -/
  refilled : List (BitVec 6)
  deriving DecidableEq, Repr

/-! ## Memory (rules R60, R61) -/

/-- Memory as (address, byte) pairs in canonical form: addresses strictly rising, no entry equal to what an unlisted
address reads as (`Memory.wf`). -/
abbrev Memory := List Host.Cell

/-! ## Why a step stops -/

/-- The states from which the spec says the model has no step ("stuck", file 93). No architectural exception is among
them: the three exceptions of the machine (rule R300) are next states. -/
inductive Fault where
  /-- The word at the head of the queue is reserved (rule R106). Raised by the step when the decoder rejects, and by
  `hsc` (rule R240). Safe: the machine goes on with "strange results" that no source gives. -/
  | reserved (why : Reserved)
  /-- `movfrs pcm4` or `movtos pcm1` while PSW.S = 1 (rules R140, R141, decision D17). Raised by those two. Safe. -/
  | chainShifting
  /-- `jpcrs` in system state with PSWother.s = 0 (rule R232, decision D26). Raised by `jpcrs`. Safe. -/
  | returnToFrozenChain
  /-- `ldf` or `stf` in a configuration without an FPU (rule R250, decision D14). Raised by those two. Safe. -/
  | noFpu
  deriving DecidableEq, Repr

/-- Refusals. -/
inductive Refusal where
  /-- The instruction has no meaning in this model yet. Raised by the arms of `exec` that say so. Safe. -/
  | notModelled (mnemonic : String)
  deriving DecidableEq, Repr

end Sys2Proof.Machine

namespace Sys2Proof.Machine

/-- The machine's state: the record of rule R41, the FPU's registers (rule R251), memory (rule R60), and the model's
own fields for what the spec leaves to the environment. -/
structure State where
  /-- the general registers (rule R20); register 0 is read and written through `State.gpr` and `State.writeGpr` -/
  x : Vector Word 32
  /-- the multiply/divide register (rule R28) -/
  md : Word
  /-- the processor status word (rule R30) -/
  psw : Psw
  /-- the PC chain (rule R26) -/
  chain : PcChain
  /-- the ghost counter of consecutive chain shifts (rule R138) -/
  k : Nat
  /-- the fetch queue's head: the instruction that executes in this step (rule R131) -/
  pc : QEntry
  /-- the entry after the head -/
  pc1 : QEntry
  /-- the last entry; its address is the manual's PCcurrent -/
  pc2 : QEntry
  /-- the load-slot shadow: what the last `LOAD_SLOTS` steps loaded, latest first (rule R351) -/
  loadShadow : List (Option Loaded)
  /-- the step before executed `movtos md` (rule R355) -/
  mdMoved : Bool
  /-- the instructions after an interrupt or overflow entry (rule R357) -/
  window : EntryWindow
  /-- the step before was a squashed slot (rule R315, the open value of PC-4) -/
  slotSquashed : Bool
  /-- the floating point registers (rule R251) -/
  f : Vector Word 16
  /-- memory (rule R60) -/
  mem : Memory
  /-- the stores so far, latest first: all that shows of the external cache's state (rules R40, R76) -/
  storeLog : List StoreCycle
  /-- the words that the instruction cache may hold older copies of (rules R40, R78, R79) -/
  stale : List StaleWord
  /-- the bus cycles sent to the coprocessors, latest first: their state (rules R38, R166) -/
  copLog : List CopCycle
  /-- the levels of the interrupt line at the coming step boundaries, as far as listed (rule R310) -/
  irq : List Bool
  /-- the step boundaries passed: the index of draws and of unlisted interrupt levels (rules R310, R362) -/
  tick : Nat
  /-- the parameters that are plain data (rule R8); no step changes them -/
  params : Params
  deriving DecidableEq, Repr

/-- PSWcurrent after reset (rule R42, decision D10): U = 0, M = 1, S = 1, V = 1. I and O are unspecified there and
0 here (DESIGN CHOICE, notes/assumptions/2.md). -/
def PswBits.resetCurrent : PswBits :=
  { I := false, M := true, U := false, S := true, V := true, O := false }

/-- PSWother after reset, unspecified in rule R42 (DESIGN CHOICE, notes/assumptions/2.md): 0, but for s, without
which `jpcrs` has no step. -/
def PswBits.resetOther : PswBits :=
  { I := false, M := false, U := false, S := true, V := false, O := false }

/-- A queue entry fetched in system state without a squash mark. -/
def QEntry.system (a : Word) : QEntry := { addr := a, user := false, squashed := false }

/-- The machine right after reset: rule R42 with the default `RESET_STATE` of decision D10; every register that rule
leaves unspecified is 0, and no hazard shadow and no entry window is open, which neither R42 nor D10 says (DESIGN
CHOICE, notes/assumptions/2.md). No word is stale: every buffer of the instruction cache is invalid (rule R42). -/
def State.reset : State where
  x := Vector.replicate 32 0
  md := 0
  psw := { cur := PswBits.resetCurrent, oth := PswBits.resetOther, e := false }
  chain := { c1 := 0, c2 := 0, c3 := 0, c4 := 0 }
  k := 0
  pc := QEntry.system 0
  pc1 := QEntry.system 1
  pc2 := QEntry.system 2
  loadShadow := []
  mdMoved := false
  window := .closed
  slotSquashed := false
  f := Vector.replicate 16 0
  mem := []
  storeLog := []
  stale := []
  copLog := []
  irq := []
  tick := 0
  params := {}

end Sys2Proof.Machine
end

