-- ==== Sys2Proof/Machine/Flags.lean ====
section
/-! DEFINITION. The adder and its carry and overflow (rule R200), the four signals a branch tests (rule R180), the
overflow predicates (rules R200, R220), and the PSW as a word (rules R31, R34). The machine has no flag register
(rule R36): the signals of a compare are values, never state. -/

namespace Sys2Proof.Machine

/-! ## The adder (rule R200) -/

/-- What `AddC` returns: the sum, the carry out of bit 31 and the signed overflow. -/
structure AddResult where
  sum : Word
  carry : Bool
  overflow : Bool
  deriving DecidableEq, Repr

/-- `AddC(a, b, cin)` (rule R200). -/
def addC (a b : Word) (cin : Bool) : AddResult :=
  let s := a.toNat + b.toNat + cin.toNat
  let sum := BitVec.ofNat 32 s
  { sum := sum
    carry := decide (2 ^ 32 ≤ s)
    overflow := a.msb == b.msb && sum.msb != a.msb }

/-- Subtraction `a - b` is `AddC(a, ~b, 1)` (rule R200). -/
def subC (a b : Word) : AddResult := addC a (~~~b) true

/-! ## The compare of a branch (rule R180) -/

/-- The four signals. -/
structure Compare where
  n : Bool
  z : Bool
  v : Bool
  c : Bool
  deriving DecidableEq, Repr

/-- N, Z, V, C of `a - b` (rule R180). -/
def compareWords (a b : Word) : Compare :=
  let r := subC a b
  { n := r.sum.msb, z := r.sum == 0, v := r.overflow, c := r.carry }

/-- `beq`: Z (rule R182). -/
def Compare.eq (q : Compare) : Bool := q.z
/-- `bne`: not Z (rule R187). -/
def Compare.ne (q : Compare) : Bool := !q.z
/-- `bhs`: C (rule R184). -/
def Compare.hs (q : Compare) : Bool := q.c
/-- `blo`: not C (rule R185). -/
def Compare.lo (q : Compare) : Bool := !q.c
/-- `blt`: N xor V (rule R186). -/
def Compare.lt (q : Compare) : Bool := q.n ^^ q.v
/-- `bge`: not (N xor V) (rule R183). -/
def Compare.ge (q : Compare) : Bool := !(q.n ^^ q.v)

/-! ## Overflow of the step instructions (rules R203, R204, R220) -/

/-- `MD_OVF`: the adder's overflow by the spec's default (never for `dstep`), or the platform's predicate; `adder` is
the overflow of the addition the instruction made, if it made one. -/
def mdOverflow (p : Params) (op : MdOp) (a b md : Word) (adder : Bool) : Bool :=
  match p.mdOvf with
  | .adder => adder && op != .dstep
  | .platform => Config.mdOvfPlatform op a b md

/-- The instruction is in `OVF_SET` (rule R200). -/
def inOvfSet (o : OvfSet) : OvfInstr → Bool
  | .add => o.add
  | .addi => o.addi
  | .sub => o.sub
  | .subnc => o.subnc
  | .mstart => o.mstart
  | .mstep => o.mstep
  | .dstep => o.dstep

/-- An instruction whose overflow predicate is `ovf` takes the trap: it is in `OVF_SET` and PSW.V = 0 (rules R200,
R312). -/
def State.overflowTraps (s : State) (i : OvfInstr) (ovf : Bool) : Bool :=
  inOvfSet s.params.ovfSet i && ovf && !s.psw.cur.V

/-! ## The PSW as a word (rules R31, R34) -/

/-- Bit `i` of the PSW word: the field whose position it is, or, in the unused and E positions, the bit of `unused`
(rules R34, R319). -/
def pswBit (l : PswLayout) (p : Psw) (unused : Word) (i : Fin 32) : Bool :=
  if i = l.U then p.cur.U
  else if i = l.u then p.oth.U
  else if i = l.O then p.cur.O
  else if i = l.o then p.oth.O
  else if i = l.e then p.e
  else if i = l.v then p.oth.V
  else if i = l.V then p.cur.V
  else if i = l.m then p.oth.M
  else if i = l.M then p.cur.M
  else if i = l.i then p.oth.I
  else if i = l.I then p.cur.I
  else if i = l.s then p.oth.S
  else if i = l.S then p.cur.S
  else unused.getLsbD i.val

/-- The word `movfrs psw` reads (rule R34). -/
def pswWord (l : PswLayout) (p : Psw) (unused : Word) : Word := BitVec.ofFnLE (pswBit l p unused)

/-- The PSW that `movtos psw` leaves in system state: the twelve bits of PSWcurrent and PSWother come from the word,
`e` stays (rule R34). -/
def pswWritten (l : PswLayout) (p : Psw) (w : Word) : Psw :=
  { cur :=
      { I := w.getLsbD l.I.val, M := w.getLsbD l.M.val, U := w.getLsbD l.U.val
        S := w.getLsbD l.S.val, V := w.getLsbD l.V.val, O := w.getLsbD l.O.val }
    oth :=
      { I := w.getLsbD l.i.val, M := w.getLsbD l.m.val, U := w.getLsbD l.u.val
        S := w.getLsbD l.s.val, V := w.getLsbD l.v.val, O := w.getLsbD l.o.val }
    e := p.e }

end Sys2Proof.Machine
end

