-- ==== Sys2Proof/Machine/FpNumerics.lean ====
section
/-! DEFINITION. The FPU's arithmetic as far as the spec fixes it (rules R253 to R262, R266): "for operands and results
that are exactly representable normal numbers, the result is the exact one"; on integers, the result that every
reading of the operation's name shares. Everywhere else the result is the opaque `Config.fpOpen` (DEDUCED and DESIGN
CHOICE, notes/assumptions/12.md). -/

namespace Sys2Proof.Machine

/-- A normal number as `m * 2^e` with integers `m` and `e` (rule R253): exp is 1 to 254, the value is
`(-1)^s * 2^(exp-127) * (1 + fraction)`. -/
def fpNormal (w : Word) : Option (Int × Int) :=
  let exp := (field w 23 8).toNat
  let m : Int := 2 ^ 23 + (field w 0 23).toNat
  if 1 ≤ exp ∧ exp ≤ 254 then some (if w.msb then -m else m, (exp : Int) - 150) else none

/-- The normal number whose value is exactly `m * 2^e`, if there is one. -/
def fpOfExact (m e : Int) : Option Word :=
  let a := m.natAbs
  let top := Nat.log2 a
  let biased : Int := e + top + 127
  let sig := if top ≤ 23 then a * 2 ^ (23 - top) else a / 2 ^ (top - 23)
  if a ≠ 0 ∧ (top ≤ 23 ∨ a % 2 ^ (top - 23) = 0) ∧ 1 ≤ biased ∧ biased ≤ 254 then
    some (BitVec.ofBool (decide (m < 0)) ++ BitVec.ofNat 8 biased.toNat ++ BitVec.ofNat 23 sig)
  else none

/-- A product or a quotient of normal numbers, or a sum, where it is exactly a normal number. -/
def fpExactBinary (op : Int → Int → Int → Int → Option Word) (a b : Word) : Option Word :=
  match fpNormal a, fpNormal b with
  | some (m, e), some (n, f) => op m e n f
  | _, _ => none

/-- Sum of `m * 2^e` and `n * 2^f`. -/
def fpAddExact (m e n f : Int) : Option Word :=
  let g := min e f
  fpOfExact (m * 2 ^ (e - g).toNat + n * 2 ^ (f - g).toNat) g

/-- Product. -/
def fpMulExact (m e n f : Int) : Option Word := fpOfExact (m * n) (e + f)

/-- Quotient: it is a normal number only if 24 more bits of the dividend make the division come out even. -/
def fpDivExact (m e n f : Int) : Option Word :=
  if m * 2 ^ 24 % n = 0 then fpOfExact (m * 2 ^ 24 / n) (e - f - 24) else none

/-- The value of a word read as an integer, where a signed and an unsigned reading agree. -/
def fpInteger (w : Word) : Option Nat := if w.toNat < 2 ^ 31 then some w.toNat else none

/-- An integer result, where a signed and an unsigned reading agree. -/
def fpOfInteger (n : Nat) : Option Word := if n < 2 ^ 31 then some (BitVec.ofNat 32 n) else none

/-- `int(f1)` of a positive normal number that is an integer (rule R259). -/
def fpToInteger (w : Word) : Option Word :=
  match fpNormal w with
  | some (m, e) =>
    if 0 ≤ m then
      if 0 ≤ e then fpOfInteger (m.toNat * 2 ^ e.toNat)
      else if m.toNat % 2 ^ (-e).toNat = 0 then fpOfInteger (m.toNat / 2 ^ (-e).toNat) else none
    else none
  | none => none

/-- The result of an operation where the spec fixes it, and on integers where the model does: the spec states neither
signedness nor, for `imul`, which part of the product is kept; the model fixes the product, quotient and remainder of
integers below 2^31 where the result is below 2^31 too, and so takes the low word of such a product (DESIGN CHOICE,
notes/assumptions/12.md). -/
def fpExact (op : FpOp) (a b : Word) : Option Word :=
  match op with
  | .fadd => fpExactBinary fpAddExact a b
  | .fsub => fpExactBinary (fun m e n f => fpAddExact m e (-n) f) a b
  | .fmul => fpExactBinary fpMulExact a b
  | .fdiv => fpExactBinary fpDivExact a b
  | .cvtif => (fpInteger a).bind fun n => fpOfExact n 0
  | .cvtfi => fpToInteger a
  | .imul => (fpInteger a).bind fun m => (fpInteger b).bind fun n => fpOfInteger (m * n)
  | .idiv =>
    (fpInteger a).bind fun m => (fpInteger b).bind fun n =>
      if n ≠ 0 ∧ m % n = 0 then fpOfInteger (m / n) else none
  | .mod =>
    (fpInteger a).bind fun m => (fpInteger b).bind fun n =>
      if n ≠ 0 then fpOfInteger (m % n) else none

/-- The operation reads its first operand only (rules R258, R259). -/
def fpUnary : FpOp → Bool
  | .cvtif => true
  | .cvtfi => true
  | .fadd => false
  | .fsub => false
  | .fmul => false
  | .fdiv => false
  | .imul => false
  | .idiv => false
  | .mod => false

/-- `FP_NUMERICS` (rule R266): the exact result where the spec fixes it, and an open value elsewhere. -/
def fpResult (op : FpOp) (a b : Word) : Word :=
  match fpExact op a b with
  | some r => r
  | none => Config.fpOpen op a (if fpUnary op then 0 else b)

/-- The operation an FPU Func field names (rules R254 to R262). -/
def fpOpOfFunc (func : BitVec 6) : Option FpOp :=
  match func with
  | 0#6 => some .fadd
  | 1#6 => some .fsub
  | 2#6 => some .fmul
  | 3#6 => some .fdiv
  | 4#6 => some .cvtif
  | 5#6 => some .cvtfi
  | 6#6 => some .imul
  | 7#6 => some .idiv
  | 8#6 => some .mod
  | _ => none

end Sys2Proof.Machine
end

