-- ==== Sys2Proof/Machine/Operands.lean ====
section
/-! DEFINITION. Operands: immediates (rule R97), registers as an instruction reads and writes them (rules R21, R143,
R351, R357), effective addresses and what leaves the chip of them (rules R62 to R65, R72), and what the shifter makes
of its operands (rules R213 to R217). -/

namespace Sys2Proof.Machine

/-! ## Immediates (rule R97) -/

/-- `sext_17` -/
def sext17 (i : BitVec 17) : Word := i.signExtend 32

/-- `sext_16` -/
def sext16 (i : BitVec 16) : Word := i.signExtend 32

/-! ## General registers (rules R20, R21) -/

/-- What register `r` holds: register 0 is the constant 0 (rule R21). -/
def State.gpr (s : State) (r : Reg) : Word := if r = 0 then 0 else s.x[r.val]

/-- The load-slot shadow after register `l` is written: a later instruction sees the written value (rule R351). A write
to register 0 is discarded and changes nothing here either (rule R21). -/
def forgetLoaded (l : Loaded) (shadow : List (Option Loaded)) : List (Option Loaded) :=
  if l = .gpr 0 then shadow else shadow.map fun o => if o = some l then none else o

/-- Write of a general register; a write to register 0 is discarded (rule R21). -/
def State.writeGpr (s : State) (r : Reg) (v : Word) : State :=
  { s with
    x := if r = 0 then s.x else s.x.set r.val v
    loadShadow := forgetLoaded (.gpr r) s.loadShadow }

/-- A read of `r` by the instruction that executes now may be wrong: `r` is in the load-slot shadow (rule R351) or the
instruction is one of the first two after an interrupt or overflow entry (rule R357). Register 0 is never affected. -/
def State.gprHazard (s : State) (r : Reg) : Bool :=
  r != 0 && (s.loadShadow.contains (some (.gpr r)) || s.window != .closed)

/-- The value an instruction gets when it reads `r` (rules R143, R351, R357). -/
def State.readGpr (s : State) (d : Draw) (r : Reg) : Word :=
  if s.gprHazard r then Config.draw s.tick d else s.gpr r

/-- The Src1 operand. -/
def State.src1 (s : State) (r : Reg) : Word := s.readGpr .src1 r

/-- The Src2 operand. -/
def State.src2 (s : State) (r : Reg) : Word := s.readGpr .src2 r

/-! ## Floating point registers (rules R251, R351) -/

/-- What floating point register `f` holds. -/
def State.fpr (s : State) (f : FReg) : Word := s.f[f.val]

/-- Write of a floating point register. -/
def State.writeFpr (s : State) (f : FReg) (v : Word) : State :=
  { s with
    f := s.f.set f.val v
    loadShadow := forgetLoaded (.fpr f) s.loadShadow }

/-- The value an instruction gets when it reads `f`: a draw where `f` is in the load-slot shadow (rule R351). -/
def State.readFpr (s : State) (d : Draw) (f : FReg) : Word :=
  if s.loadShadow.contains (some (.fpr f)) then Config.draw s.tick d else s.fpr f

/-! ## Addresses (rules R62 to R65, R71, R72) -/

/-- In user state the top bit of an address that leaves the chip is forced to 1 (rule R65). -/
def forceUser (user : Bool) (a : Word) : Word := if user then a ||| 0x80000000#32 else a

/-- The effective address of a memory instruction, and the address word of a coprocessor cycle (rules R62, R166). -/
def State.effectiveAddress (s : State) (offset : BitVec 17) (src1 : Reg) : Word := sext17 offset + s.src1 src1

/-- The word a data access goes to: the forced address without its two low bits (rules R63, R65). -/
def State.dataWord (s : State) (ea : Word) : WordNumber := field (forceUser s.psw.cur.U ea) 2 30

/-- In user state bit `bit` of a PC value that is fetched from is forced to 1 (rule R71, `USER_FETCH_FORCE`). -/
def forceUserPc (bit : Fin 32) (user : Bool) (pc : Word) : Word := if user then pc ||| 1#32 <<< bit.val else pc

/-- `IMAP`: the memory word of a PC value; by the spec's default its low 30 bits (rule R72). -/
def mapPc (m : FetchMap) (pc : Word) : WordNumber :=
  match m with
  | .shifted => field pc 0 30
  | .platform => Config.imapPlatform pc

/-- The word a fetch of PC value `pc` in state `user` reads (rules R71, R72). -/
def fetchWordNumber (p : Params) (pc : Word) (user : Bool) : WordNumber :=
  mapPc p.fetchMap (forceUserPc p.userFetchForce user pc)

/-! ## The shifter (rules R214 to R217) -/

/-- `asr`: arithmetic shift right; a shift by 32 leaves the sign bit everywhere (rule R214). -/
def asrWord (a : Word) (amount : Nat) : Word := a.sshiftRight amount

/-- `sh`: the low word of `(high || low) >> amount` (rule R217); with r0 as one operand the logical shifts, with one
register twice the rotates (rule R219). -/
def funnelShift (high low : Word) (amount : Nat) : Word := ((high ++ low) >>> amount).setWidth 32

/-- `rotlb`: rotate left by the number of bytes in the two low bits of `b` (rule R215). -/
def rotateBytes (a b : Word) : Word := a.rotateLeft (8 * (field b 0 2).toNat)

/-- `rotlcb`: rotate left by the complement of those two bits (rule R216). -/
def rotateBytesComplement (a b : Word) : Word := a.rotateLeft (8 * (~~~(field b 0 2)).toNat)

end Sys2Proof.Machine
end

