-- ==== Sys2Proof/Machine/Ops.lean ====
section
/-! DEFINITION. The named operations of the machine: memory (rules R60 to R79), the end of a step (rules R132 to R138),
taking an exception and the restore of a return from one (rules R314 to R316, R232), coprocessor cycles (rule R166)
and the fetch (rule R72). -/

namespace Sys2Proof.Machine

/-! ## Memory as bytes (rule R60) -/

/-- What an address reads as that memory does not list. No source gives the contents of memory (rule R42):
DESIGN CHOICE, notes/assumptions/3.md. -/
def unlistedByte : Byte := 0

/-- The byte at an address. -/
def Memory.read : Memory → Nat → Byte
  | [], _ => unlistedByte
  | (k, v) :: rest, a => if k = a then v else Memory.read rest a

/-- Insert an entry where the rising order of addresses has it. -/
def Memory.insert : Memory → Nat → Byte → Memory
  | [], a, b => [(a, b)]
  | (k, v) :: rest, a, b => if a < k then (a, b) :: (k, v) :: rest else (k, v) :: Memory.insert rest a b

/-- Write one byte: the address's old entry goes, and a new one is made unless the byte is what an unlisted address
reads as. -/
def Memory.write (m : Memory) (a : Nat) (b : Byte) : Memory :=
  let rest := m.filter fun c => c.1 != a
  if b = unlistedByte then rest else Memory.insert rest a b

/-- Canonical from address `lo` on: addresses strictly rising and inside the address space, no entry equal to what an
unlisted address reads as. -/
def Memory.wfFrom : Nat → Memory → Bool
  | _, [] => true
  | lo, (k, v) :: rest => decide (lo ≤ k) && decide (k < 2 ^ 32) && v != unlistedByte && Memory.wfFrom (k + 1) rest

/-- The canonical form. -/
def Memory.wf (m : Memory) : Bool := Memory.wfFrom 0 m

/-! ## Memory as words (rules R60, R61, R66, R67) -/

/-- The address of a word's first byte. -/
def wordAddress (w : WordNumber) : Nat := 4 * w.toNat

/-- The big-endian word `w` (rules R61, R66). -/
def Memory.readWord (m : Memory) (w : WordNumber) : Word :=
  wordOfBytes (Memory.read m (wordAddress w)) (Memory.read m (wordAddress w + 1))
    (Memory.read m (wordAddress w + 2)) (Memory.read m (wordAddress w + 3))

/-- Word `w` becomes `v`, all four bytes (rules R61, R67). -/
def Memory.writeWord (m : Memory) (w : WordNumber) (v : Word) : Memory :=
  let m := Memory.write m (wordAddress w) (field v 24 8)
  let m := Memory.write m (wordAddress w + 1) (field v 16 8)
  let m := Memory.write m (wordAddress w + 2) (field v 8 8)
  Memory.write m (wordAddress w + 3) (field v 0 8)

/-! ## Loads and stores (rules R66, R67, R75, R76) -/

/-- An access to word `w` may find either of two values: the word has been stored to by the other path (rule R76). -/
def State.mixedAccess (s : State) (p : Path) (w : WordNumber) : Bool :=
  s.storeLog.any fun c => c.word == w && c.path != p

/-- The word an access by path `p` finds: memory's, or, where the paths were mixed, the cache model's if `CACHE_VISIBLE`
supplies one and else draw `d` (rules R66, R75, R76; the draw is the model's choice, notes/assumptions/7.md). -/
def State.wordByPath (s : State) (p : Path) (d : Draw) (w : WordNumber) : Word :=
  if s.mixedAccess p w then
    match s.params.cacheVisible with
    | .refused => Config.draw s.tick d
    | .platform => Config.cacheModel s.tick s.storeLog p w (Memory.readWord s.mem w)
  else Memory.readWord s.mem w

/-- The word a load finds (rules R66, R76). -/
def State.loadWord (s : State) (p : Path) (w : WordNumber) : Word := s.wordByPath p .load w

/-- The stale words after a store to `w`: an older record of `w` goes (rule R78). -/
def noteStale (l : List StaleWord) (w : WordNumber) : List StaleWord :=
  { word := w, age := 0, refilled := [] } :: l.filter fun e => e.word != w

/-- A store of word `w`, recorded for the two caches (rules R67, R76, R78). -/
def State.storeWord (s : State) (p : Path) (w : WordNumber) (v : Word) : State :=
  { s with
    mem := Memory.writeWord s.mem w v
    storeLog := { path := p, word := w, data := v } :: s.storeLog
    stale := noteStale s.stale w }

/-! ## Fetches and the instruction cache (rules R72, R78, R79) -/

/-- The word the head of the queue is fetched from (rules R72, R133). -/
def State.fetchNumber (s : State) : WordNumber := fetchWordNumber s.params s.pc.addr s.pc.user

/-- The head of the queue was fetched after the store: an address enters the queue three steps before it is its head
(rules R131, R134). -/
def StaleWord.queueTurned (e : StaleWord) : Bool := decide (4 ≤ e.age)

/-- The fetches at these cache indices have gone to every buffer, whatever the geometry is: each index shares its
buffer with one of them (rules R78, R79). -/
def coversBuffers (refilled : List (BitVec 6)) : Bool :=
  (List.finRange 64).all fun j =>
    refilled.any fun i => Config.cacheBuffer i == Config.cacheBuffer (BitVec.ofFin j)

/-- The word is in user space (rules R64, R66). -/
def userWord (w : WordNumber) : Bool := w.getLsbD 29

/-- The older copy has gone: a user-space word, and every buffer has been filled from system space since the store, after
which "no buffer holds a user-space instruction" (rules R78, R79). -/
def StaleWord.displaced (e : StaleWord) : Bool := e.queueTurned && userWord e.word && coversBuffers e.refilled

/-- A fetch of word `w` may find an older copy: the program has stored to it, no flush has displaced the copy, and the
platform does not state otherwise (rule R78). -/
def State.fetchesStale (s : State) (w : WordNumber) : Bool :=
  s.stale.any fun e => e.word == w && !(e.displaced || s.params.fetchCoherent && e.queueTurned)

/-- `IFetch` for the head of the queue, through the external cache; a draw where it may find an older copy (rules R72,
R75, R76, R78; the draw is the model's choice, notes/assumptions/8.md). -/
def State.fetch (s : State) : Word :=
  if s.fetchesStale s.fetchNumber then Config.draw s.tick .fetch else s.wordByPath .cached .fetch s.fetchNumber

/-- A stale word one step on: the step's instruction, if it was fetched from system space after the store, has filled its
buffer (rules R78, R79). -/
def State.ageStale (s : State) (e : StaleWord) : StaleWord :=
  { e with
    age := e.age + 1
    refilled :=
      if e.queueTurned && !userWord s.fetchNumber && !e.refilled.contains (field s.pc.addr 0 6) then
        field s.pc.addr 0 6 :: e.refilled
      else e.refilled }

/-! ## The PC chain (rules R26, R137, R140, R141) -/

/-- One shift, `v` entering at PC-1 (rules R26, R137). -/
def PcChain.shift (c : PcChain) (v : Word) : PcChain := { c1 := v, c2 := c.c1, c3 := c.c2, c4 := c.c3 }

/-! ## The end of a step (rules R132 to R138, R351, R355, R357) -/

/-- What an instruction leaves to the end of its step. -/
structure After where
  /-- the address that enters the queue (rule R134) -/
  next : Word
  /-- `squash_request` (rule R136) -/
  squash : Bool := false
  /-- the chain shifts whatever PSW.S is (rule R139) -/
  shiftAnyway : Bool := false
  /-- the register loaded (rule R351) -/
  loaded : Option Loaded := none
  /-- the instruction was `movtos md` (rule R355) -/
  mdMoved : Bool := false
  /-- the step was a squashed slot (rule R136) -/
  slotSquashed : Bool := false
  deriving DecidableEq, Repr

/-- The window of rule R357 one step on. -/
def EntryWindow.advance : EntryWindow → EntryWindow
  | .first => .second
  | .second => .closed
  | .closed => .closed

/-- The incrementer (rule R134). -/
def State.incrementer (s : State) : Word := s.pc2.addr + 1

/-- Mark a queue entry (rule R136). -/
def QEntry.mark (q : QEntry) (squash : Bool) : QEntry := { q with squashed := q.squashed || squash }

/-- The end of a step that is no exception entry (rules R132, R133, R136 to R139): the chain, the ghost counter, the
queue, the shadows and the stale words. `s` is the state with the instruction's own effects in it. -/
def State.retire (s : State) (a : After) : State :=
  { s with
    chain := if s.psw.cur.S || a.shiftAnyway then s.chain.shift a.next else s.chain
    k := if s.psw.cur.S then s.k + 1 else 0
    pc := s.pc1.mark a.squash
    pc1 := s.pc2.mark a.squash
    pc2 := { addr := a.next, user := s.psw.cur.U, squashed := false }
    loadShadow := (a.loaded :: s.loadShadow).take s.params.loadSlots
    mdMoved := a.mdMoved
    window := s.window.advance
    slotSquashed := a.slotSquashed
    stale := s.stale.map s.ageStale
    irq := s.irq.tail
    tick := s.tick + 1 }

/-- The end of a step whose instruction does not transfer control. -/
def State.retireNext (s : State) : State := s.retire { next := s.incrementer }

/-- The step of a squashed slot: it does nothing, but the queue and the chain move (rule R136). -/
def State.skipSquashed (s : State) : State := s.retire { next := s.incrementer, slotSquashed := true }

/-! ## Taking an exception (rules R314 to R316) -/

/-- The three kinds of exception (rule R300). -/
inductive Exception where
  | interrupt
  | overflow
  | trap (vector : BitVec 8)
  deriving DecidableEq, Repr

/-- The PC value of the handler (rules R300, R314). -/
def Exception.entry : Exception → Word
  | .interrupt => 0
  | .overflow => 0
  | .trap v => v.setWidth 32 <<< 3

/-- The PSW after entry (rule R314). -/
def pswAtEntry (p : Psw) (kind : Exception) (e : Bool) : Psw :=
  { cur := { I := kind != .interrupt, M := true, U := false, S := false, V := true, O := kind == .overflow }
    oth := p.cur
    e := e }

/-- The address a queue entry is restarted at: 0 for a squashed one (rule R316). -/
def QEntry.restart (q : QEntry) : Word := if q.squashed then 0 else q.addr

/-- The chain an interrupt or an overflow trap freezes (rule R316). -/
def State.chainAtInterrupt (s : State) : PcChain :=
  if 3 ≤ s.k then
    { c1 := Config.draw s.tick .c1, c2 := s.pc2.restart, c3 := s.pc1.restart, c4 := s.pc.restart }
  else
    { c1 := Config.draw s.tick .c1, c2 := Config.draw s.tick .c2
      c3 := Config.draw s.tick .c3, c4 := Config.draw s.tick .c4 }

/-- The chain a `trap` freezes: as it stands; PC-4 is the address before the trap, or 0, not determined, where the
instruction before the trap was a squashed slot (rule R315). -/
def State.chainAtTrap (s : State) : PcChain :=
  if s.slotSquashed && decide (4 ≤ s.k) && (Config.draw s.tick .c4).getLsbD 0 then { s.chain with c4 := 0 }
  else s.chain

/-- The chain after entry. -/
def State.chainAtEntry (s : State) : Exception → PcChain
  | .interrupt => s.chainAtInterrupt
  | .overflow => s.chainAtInterrupt
  | .trap _ => s.chainAtTrap

/-- The window of rule R357 after entry: a `trap` opens none. -/
def State.windowAtEntry (s : State) : Exception → EntryWindow
  | .interrupt => .first
  | .overflow => .first
  | .trap _ => s.window.advance

/-- Exception entry (rule R314): PSWcurrent goes to PSWother, the six bits and `e` are set, the chain freezes, the
queue is replaced by three system-space entries at the handler. Nothing else changes. -/
def State.enterException (s : State) (kind : Exception) : State :=
  { s with
    psw := pswAtEntry s.psw kind (decide (s.params.eDepth ≤ s.k))
    chain := s.chainAtEntry kind
    k := 0
    pc := QEntry.system kind.entry
    pc1 := QEntry.system (kind.entry + 1)
    pc2 := QEntry.system (kind.entry + 2)
    loadShadow := []
    mdMoved := false
    window := s.windowAtEntry kind
    slotSquashed := false
    irq := s.irq.tail
    tick := s.tick + 1 }

/-! ## Returning from an exception (rules R139, R232) -/

/-- PSWcurrent from PSWother; PSWother and `e` stay (rule R232). -/
def Psw.restored (p : Psw) : Psw := { p with cur := p.oth }

/-- The target of `jpc` and `jpcrs`: PC-4, or a draw where the chain is refilled (rule R139). -/
def State.chainTarget (s : State) : Word := if 3 ≤ s.k then Config.draw s.tick .next else s.chain.c4

/-! ## The interrupt line (rules R310, R320) -/

/-- The level of the line at this boundary. -/
def State.irqNow (s : State) : Bool :=
  match s.irq with
  | level :: _ => level
  | [] => Config.irqLevel s.tick

/-- An interrupt is taken at this boundary (rule R310). -/
def State.interruptTaken (s : State) : Bool := !s.psw.cur.M && s.irqNow

/-! ## Coprocessor cycles (rules R114, R166, R254 to R266) -/

/-- COP# of an address word as driven (rules R114, R166). -/
def copNumber (a : Word) : BitVec 3 := field a 14 3

/-- The cycle goes to the FPU: COP# 0 with an FPU (rule R250). -/
def State.fpuAddressed (s : State) (a : Word) : Bool := s.params.hasFpu && copNumber a == 0#3

/-- An FPU compute operation: `f2 <- f1 op f2` (rules R254 to R262). -/
def State.fpuCompute (s : State) (op : FpOp) (f1 f2 : FReg) : State :=
  s.writeFpr f2 (fpResult op (s.readFpr .fsrc1 f1) (s.readFpr .fsrc2 f2))

/-- The FPU after a cycle the spec does not define: every register unspecified (rule R266, and the model's choice,
notes/assumptions/10.md). -/
def State.fpuUnspecified (s : State) : State :=
  { s with f := Vector.ofFn fun n : FReg => Config.draw s.tick (.fpu n) }

/-- A cycle the FPU answers: its state afterwards and the word on the data lines (rules R254 to R264, R266). A cycle with
the function of `movif` and CS1 not 0, or of `movfi` and CS2 not 0, which rules R263 and R264 want 0, is treated as one
with an undefined function: the spec does not say what the FPU does with it (DESIGN CHOICE, notes/assumptions/10.md). -/
def State.fpuCycle (s : State) (kind : CopKind) (a data : Word) : State × Word :=
  let func := field a 8 6
  let cs1 := fieldFReg a 4
  let cs2 := fieldFReg a 0
  match kind with
  | .alu =>
    match fpOpOfFunc func with
    | some op => (s.fpuCompute op cs1 cs2, Config.draw s.tick .cop)
    | none => (s.fpuUnspecified, Config.draw s.tick .cop)
  | .toCop =>
    if func = 9#6 ∧ cs1 = 0 then (s.writeFpr cs2 data, Config.draw s.tick .cop)
    else (s.fpuUnspecified, Config.draw s.tick .cop)
  | .fromCop =>
    if func = 10#6 ∧ cs2 = 0 then (s, s.readFpr .fsrc1 cs1)
    else (s.fpuUnspecified, Config.draw s.tick .cop)

/-- A cycle that goes to the coprocessors: it is added to what they have been sent (rule R166, decision D13). -/
def State.outsideCycle (s : State) (kind : CopKind) (a data : Word) : State × Word :=
  let log := { kind := kind, addr := a, data := data, user := s.psw.cur.U } :: s.copLog
  ({ s with copLog := log }, Config.copAnswer log)

/-- `CopCycle` (rule R166): the state afterwards and the word on the data lines. -/
def State.copCycle (s : State) (kind : CopKind) (a data : Word) : State × Word :=
  if s.fpuAddressed a then s.fpuCycle kind a data else s.outsideCycle kind a data

/-! ## What a step answers -/

/-- The outcome of a step of this machine. -/
abbrev Result := Host.Outcome State Fault Refusal

end Sys2Proof.Machine
end

