-- ==== Sys2Proof/Machine/Branch.lean ====
section
/-! DEFINITION. The branches (rules R180 to R187). No branch writes a register, MD or the PSW, and none raises an
exception, whatever its subtraction does (rule R191). -/

namespace Sys2Proof.Machine

/-- Taken and not taken (rule R181): the displacement counts from PCcurrent, and a branch with SQ that is not taken
squashes its two slots. -/
def branchOn (taken squashing : Bool) (disp : BitVec 16) (s : State) : State :=
  if taken then s.retire { next := s.pc2.addr + sext16 disp }
  else s.retire { next := s.incrementer, squash := squashing }

/-- The compare of a branch's two registers (rule R180). -/
def State.compareRegs (s : State) (src1 src2 : Reg) : Compare := compareWords (s.src1 src1) (s.src2 src2)

/-- `beq` (rule R182). -/
def execBeq (src1 src2 : Reg) (disp : BitVec 16) (s : State) : Result :=
  .next (branchOn (s.compareRegs src1 src2).eq false disp s)

/-- `beqsq` (rule R182). -/
def execBeqsq (src1 src2 : Reg) (disp : BitVec 16) (s : State) : Result :=
  .next (branchOn (s.compareRegs src1 src2).eq true disp s)

/-- `bge` (rule R183). -/
def execBge (src1 src2 : Reg) (disp : BitVec 16) (s : State) : Result :=
  .next (branchOn (s.compareRegs src1 src2).ge false disp s)

/-- `bgesq` (rule R183). -/
def execBgesq (src1 src2 : Reg) (disp : BitVec 16) (s : State) : Result :=
  .next (branchOn (s.compareRegs src1 src2).ge true disp s)

/-- `bhs` (rule R184). -/
def execBhs (src1 src2 : Reg) (disp : BitVec 16) (s : State) : Result :=
  .next (branchOn (s.compareRegs src1 src2).hs false disp s)

/-- `bhssq` (rule R184). -/
def execBhssq (src1 src2 : Reg) (disp : BitVec 16) (s : State) : Result :=
  .next (branchOn (s.compareRegs src1 src2).hs true disp s)

/-- `blo` (rule R185). -/
def execBlo (src1 src2 : Reg) (disp : BitVec 16) (s : State) : Result :=
  .next (branchOn (s.compareRegs src1 src2).lo false disp s)

/-- `blosq` (rule R185). -/
def execBlosq (src1 src2 : Reg) (disp : BitVec 16) (s : State) : Result :=
  .next (branchOn (s.compareRegs src1 src2).lo true disp s)

/-- `blt` (rule R186). -/
def execBlt (src1 src2 : Reg) (disp : BitVec 16) (s : State) : Result :=
  .next (branchOn (s.compareRegs src1 src2).lt false disp s)

/-- `bltsq` (rule R186). -/
def execBltsq (src1 src2 : Reg) (disp : BitVec 16) (s : State) : Result :=
  .next (branchOn (s.compareRegs src1 src2).lt true disp s)

/-- `bne` (rule R187). -/
def execBne (src1 src2 : Reg) (disp : BitVec 16) (s : State) : Result :=
  .next (branchOn (s.compareRegs src1 src2).ne false disp s)

/-- `bnesq` (rule R187). -/
def execBnesq (src1 src2 : Reg) (disp : BitVec 16) (s : State) : Result :=
  .next (branchOn (s.compareRegs src1 src2).ne true disp s)

end Sys2Proof.Machine
end

