-- ==== Sys2Proof/Machine/Compute.lean ====
section
/-! DEFINITION. The compute instructions but for the step instructions (rules R200, R201, R205 to R218). The only
exception any can raise is the overflow trap (rule R200). -/

namespace Sys2Proof.Machine

/-- An addition or subtraction: the overflow trap, with nothing written, or the sum in Dest (rules R200, R312). -/
def arithmetic (i : OvfInstr) (r : AddResult) (dest : Reg) (s : State) : State :=
  if s.overflowTraps i r.overflow then s.enterException .overflow
  else (s.writeGpr dest r.sum).retireNext

/-- An instruction that only writes a value to Dest. -/
def writeResult (v : Word) (dest : Reg) (s : State) : State := (s.writeGpr dest v).retireNext

/-- `add` (rule R201). -/
def execAdd (src1 src2 dest : Reg) (s : State) : Result :=
  .next (arithmetic .add (addC (s.src1 src1) (s.src2 src2) false) dest s)

/-- `sub` (rule R205). -/
def execSub (src1 src2 dest : Reg) (s : State) : Result :=
  .next (arithmetic .sub (addC (s.src1 src1) (~~~(s.src2 src2)) true) dest s)

/-- `subnc` (rule R206). -/
def execSubnc (src1 src2 dest : Reg) (s : State) : Result :=
  .next (arithmetic .subnc (addC (s.src1 src1) (~~~(s.src2 src2)) false) dest s)

/-- `and` (rule R207). -/
def execAnd (src1 src2 dest : Reg) (s : State) : Result :=
  .next (writeResult (s.src1 src1 &&& s.src2 src2) dest s)

/-- `bic` (rule R208): the mask is Src1. -/
def execBic (src1 src2 dest : Reg) (s : State) : Result :=
  .next (writeResult (~~~(s.src1 src1) &&& s.src2 src2) dest s)

/-- `not` (rule R209). -/
def execNot (src1 dest : Reg) (s : State) : Result :=
  .next (writeResult (~~~(s.src1 src1)) dest s)

/-- `or` (rule R210). -/
def execOr (src1 src2 dest : Reg) (s : State) : Result :=
  .next (writeResult (s.src1 src1 ||| s.src2 src2) dest s)

/-- `xor` (rule R211). -/
def execXor (src1 src2 dest : Reg) (s : State) : Result :=
  .next (writeResult (s.src1 src1 ^^^ s.src2 src2) dest s)

/-- `mov`: `add` with Src2 = r0 (rule R212). -/
def execMov (src1 dest : Reg) (s : State) : Result :=
  .next (arithmetic .add (addC (s.src1 src1) (s.src2 0) false) dest s)

/-- `asr` (rule R214). -/
def execAsr (src1 dest : Reg) (amount : Nat) (s : State) : Result :=
  .next (writeResult (asrWord (s.src1 src1) amount) dest s)

/-- `rotlb` (rule R215). -/
def execRotlb (src1 src2 dest : Reg) (s : State) : Result :=
  .next (writeResult (rotateBytes (s.src1 src1) (s.src2 src2)) dest s)

/-- `rotlcb` (rule R216). -/
def execRotlcb (src1 src2 dest : Reg) (s : State) : Result :=
  .next (writeResult (rotateBytesComplement (s.src1 src1) (s.src2 src2)) dest s)

/-- `sh`: Src2 is the high word (rule R217). -/
def execSh (src1 src2 dest : Reg) (amount : Nat) (s : State) : Result :=
  .next (writeResult (funnelShift (s.src2 src2) (s.src1 src1) amount) dest s)

/-! ## The shift mnemonics that are words of `sh` (rule R219) -/

/-- `lsr src1,dest,#amount`, 1 to 32: zeros enter from r0, the high word (rule R284). -/
def lsrAsSh (src1 dest : Reg) (amount : Nat) : Instr := .sh src1 0 dest amount

/-- `lsl src2,dest,#amount`: the low word is r0. Rule R284 gives this word for the amounts 1 to 31 and does not state what
the assembler does with `#0`; here that is the word of `sh` by 32, a copy (DESIGN CHOICE, notes/assumptions/21.md). -/
def lslAsSh (src2 dest : Reg) (amount : Nat) : Instr := .sh 0 src2 dest (32 - amount)

/-- The rotation of `src` right by `amount`: both words are `src`. -/
def rotateAsSh (src dest : Reg) (amount : Nat) : Instr := .sh src src dest amount

/-! ## No operation -/

/-- `nop`: `add r0,r0,r0` (rule R218). -/
def execNop (s : State) : Result :=
  .next (arithmetic .add (addC (s.src1 0) (s.src2 0) false) 0 s)

end Sys2Proof.Machine
end

