-- ==== Sys2Proof/Machine/Coprocessor.lean ====
section
/-! DEFINITION. The coprocessor instructions (rules R166 to R169) and the FPU instructions, each of which is one
coprocessor cycle to COP# 0 (rules R254 to R264). None raises an exception (rule R170). -/

namespace Sys2Proof.Machine

/-- `movfrc` with its address word made: with Dest = 0 it is `aluc`, whose data word is discarded (rules R167, R169).
A destination that is the base register gets a draw (rule R352), and a destination enters the load-slot shadow (rule
R351). -/
def moveFromCop (a : Word) (src1 dest : Reg) (s : State) : State :=
  if dest = 0 then (s.copCycle .alu a 0).1.retireNext
  else
    let r := s.copCycle .fromCop a 0
    let v := if dest = src1 then Config.draw s.tick .dest else r.2
    (r.1.writeGpr dest v).retire { next := s.incrementer, loaded := some (.gpr dest) }

/-- `movtoc` with its address word made (rule R168). -/
def moveToCop (a : Word) (src2 : Reg) (s : State) : State := (s.copCycle .toCop a (s.src2 src2)).1.retireNext

/-- `aluc` with its address word made (rule R169). -/
def aluCop (a : Word) (s : State) : State := (s.copCycle .alu a 0).1.retireNext

/-- `movfrc` (rule R167). -/
def execMovfrc (copI : BitVec 17) (src1 dest : Reg) (s : State) : Result :=
  .next (moveFromCop (s.effectiveAddress copI src1) src1 dest s)

/-- `movtoc` (rule R168). -/
def execMovtoc (copI : BitVec 17) (src1 src2 : Reg) (s : State) : Result :=
  .next (moveToCop (s.effectiveAddress copI src1) src2 s)

/-- `aluc` (rule R169). -/
def execAluc (copI : BitVec 17) (src1 : Reg) (s : State) : Result :=
  .next (aluCop (s.effectiveAddress copI src1) s)

/-! ## The FPU instructions: Src1 is r0, so the address word is the CopI itself (rules R254 to R264) -/

/-- `fadd` (rule R254). -/
def execFadd (f1 f2 : FReg) (s : State) : Result := .next (aluCop (sext17 (fpuCopI 0#6 f1 f2)) s)

/-- `fsub` (rule R255). -/
def execFsub (f1 f2 : FReg) (s : State) : Result := .next (aluCop (sext17 (fpuCopI 1#6 f1 f2)) s)

/-- `fmul` (rule R256). -/
def execFmul (f1 f2 : FReg) (s : State) : Result := .next (aluCop (sext17 (fpuCopI 2#6 f1 f2)) s)

/-- `fdiv` (rule R257). -/
def execFdiv (f1 f2 : FReg) (s : State) : Result := .next (aluCop (sext17 (fpuCopI 3#6 f1 f2)) s)

/-- `cvtif` (rule R258). -/
def execCvtif (f1 f2 : FReg) (s : State) : Result := .next (aluCop (sext17 (fpuCopI 4#6 f1 f2)) s)

/-- `cvtfi` (rule R259). -/
def execCvtfi (f1 f2 : FReg) (s : State) : Result := .next (aluCop (sext17 (fpuCopI 5#6 f1 f2)) s)

/-- `imul` (rule R260). -/
def execImul (f1 f2 : FReg) (s : State) : Result := .next (aluCop (sext17 (fpuCopI 6#6 f1 f2)) s)

/-- `idiv` (rule R261). -/
def execIdiv (f1 f2 : FReg) (s : State) : Result := .next (aluCop (sext17 (fpuCopI 7#6 f1 f2)) s)

/-- `mod` (rule R262). -/
def execMod (f1 f2 : FReg) (s : State) : Result := .next (aluCop (sext17 (fpuCopI 8#6 f1 f2)) s)

/-- `movif` (rule R263). -/
def execMovif (src2 : Reg) (f1 : FReg) (s : State) : Result :=
  .next (moveToCop (sext17 (fpuCopI 9#6 0 f1)) src2 s)

/-- `movfi` (rule R264). -/
def execMovfi (f1 : FReg) (dest : Reg) (s : State) : Result :=
  .next (moveFromCop (sext17 (fpuCopI 10#6 f1 0)) 0 dest s)

end Sys2Proof.Machine
end

