-- ==== Sys2Proof/Machine/Immediate.lean ====
section
/-! DEFINITION. The compute immediate instructions (rules R230 to R240): `addi`, the jumps, the special-register moves
and `trap`. The privileged actions are the PSW write of `movtos psw` and the PSW restore of `jpcrs` (rule R237). -/

namespace Sys2Proof.Machine

/-- `addi` (rule R230). -/
def execAddi (src1 : Reg) (immed : BitVec 17) (dest : Reg) (s : State) : Result :=
  .next (arithmetic .addi (addC (s.src1 src1) (sext17 immed) false) dest s)

/-- `jpc` (rule R231): not privileged, the PSW unchanged. -/
def execJpc (s : State) : Result :=
  .next (s.retire { next := s.chainTarget, shiftAnyway := true })

/-- `jpcrs` (rule R232): in system state PSWcurrent comes from PSWother, and there is no step where PSWother.s = 0
(decision D26); in user state it is a jump. -/
def execJpcrs (s : State) : Result :=
  let a : After := { next := s.chainTarget, shiftAnyway := true }
  if s.psw.cur.U then .next (s.retire a)
  else if s.psw.oth.S then .next ({ s with psw := s.psw.restored }.retire a)
  else .fault .returnToFrozenChain

/-- `jspci` (rule R233): the link is PCcurrent + 1, the sum raises no overflow trap. -/
def execJspci (src1 : Reg) (immed : BitVec 17) (dest : Reg) (s : State) : Result :=
  .next ((s.writeGpr dest (s.pc2.addr + 1)).retire { next := s.src1 src1 + sext17 immed })

/-- The PSW word as `movfrs psw` reads it now (rule R34). -/
def State.pswRead (s : State) : Word := pswWord s.params.pswLayout s.psw (Config.draw s.tick .psw)

/-- MD as `movfrs md` reads it now: a draw in the first instruction after an interrupt or overflow entry (rule R357);
directly after `movtos md` the new value (rule R355). -/
def State.mdRead (s : State) : Word := if s.window = .first then Config.draw s.tick .mdIn else s.md

/-- `movfrs` (rules R140, R234). -/
def execMovfrs (spec : SpecSrc) (dest : Reg) (s : State) : Result :=
  match spec with
  | .psw => .next (writeResult s.pswRead dest s)
  | .md => .next (writeResult s.mdRead dest s)
  | .pcm4 =>
    if s.psw.cur.S then .fault .chainShifting
    else
      .next ({ s.writeGpr dest s.chain.c4 with
        chain := s.chain.shift (Config.draw s.tick .c1) }.retireNext)

/-- `movtos` (rules R34, R141, R235): the PSW write is a nop in user state. -/
def execMovtos (src1 : Reg) (spec : SpecDst) (s : State) : Result :=
  let v := s.src1 src1
  match spec with
  | .psw =>
    .next ({ s with psw := if s.psw.cur.U then s.psw else pswWritten s.params.pswLayout s.psw v }.retireNext)
  | .md => .next ({ s with md := v }.retire { next := s.incrementer, mdMoved := true })
  | .pcm1 =>
    if s.psw.cur.S then .fault .chainShifting
    else
      .next ({ s with
        chain := { c1 := Config.draw s.tick .c1, c2 := v, c3 := s.chain.c2, c4 := s.chain.c3 } }.retireNext)

/-- `trap` (rules R236, R313): always taken, in both states. -/
def execTrap (vector : BitVec 8) (s : State) : Result := .next (s.enterException (.trap vector))

/-- `hsc`: not an instruction of this hardware, its OP is unused (rules R111, R240, conflict C4). -/
def execHsc (_ : State) : Result := .fault (.reserved .opUnused)

end Sys2Proof.Machine
end

