-- ==== Sys2Proof/Machine/LoadStore.lean ====
section
/-! DEFINITION. Loads and stores (rules R160 to R165). None changes the PSW, MD or the PC chain by itself, none is
privileged and none raises an exception (rule R170). -/

namespace Sys2Proof.Machine

/-- A load into a general register: a draw where the destination is the base register (rule R352); the destination
enters the load-slot shadow (rule R351). -/
def loadGpr (p : Path) (offset : BitVec 17) (src1 dest : Reg) (s : State) : State :=
  let found := s.loadWord p (s.dataWord (s.effectiveAddress offset src1))
  let v := if dest = src1 then Config.draw s.tick .dest else found
  (s.writeGpr dest v).retire
    { next := s.incrementer, loaded := if dest = 0 then none else some (.gpr dest) }

/-- A store from a general register (rules R161, R165). -/
def storeGpr (p : Path) (offset : BitVec 17) (src1 src2 : Reg) (s : State) : State :=
  (s.storeWord p (s.dataWord (s.effectiveAddress offset src1)) (s.src2 src2)).retireNext

/-- `ld` (rule R160). -/
def execLd (offset : BitVec 17) (src1 dest : Reg) (s : State) : Result :=
  .next (loadGpr .cached offset src1 dest s)

/-- `ldt` (rule R164). -/
def execLdt (offset : BitVec 17) (src1 dest : Reg) (s : State) : Result :=
  .next (loadGpr .through offset src1 dest s)

/-- `st` (rule R161). -/
def execSt (offset : BitVec 17) (src1 src2 : Reg) (s : State) : Result :=
  .next (storeGpr .cached offset src1 src2 s)

/-- `stt` (rule R165). -/
def execStt (offset : BitVec 17) (src1 src2 : Reg) (s : State) : Result :=
  .next (storeGpr .through offset src1 src2 s)

/-- `ldf` (rule R162); without an FPU there is no step (rule R250). -/
def execLdf (offset : BitVec 17) (src1 : Reg) (dest : FReg) (s : State) : Result :=
  if s.params.hasFpu then
    .next ((s.writeFpr dest (s.loadWord .cached (s.dataWord (s.effectiveAddress offset src1)))).retire
      { next := s.incrementer, loaded := some (.fpr dest) })
  else .fault .noFpu

/-- `stf` (rule R163); without an FPU there is no step (rule R250). -/
def execStf (offset : BitVec 17) (src1 : Reg) (src2 : FReg) (s : State) : Result :=
  if s.params.hasFpu then
    .next (s.storeWord .cached (s.dataWord (s.effectiveAddress offset src1)) (s.readFpr .fsrc2 src2)).retireNext
  else .fault .noFpu

end Sys2Proof.Machine
end

