-- ==== Sys2Proof/Machine/MulDiv.lean ====
section
/-! DEFINITION. The step instructions of multiplication and division (rules R202 to R204, R220, R355, R357). -/

namespace Sys2Proof.Machine

/-- What a step instruction makes of its operands: the register result, the new MD, and the adder's overflow where it
added. -/
structure MdStep where
  result : Word
  md : Word
  overflow : Bool
  deriving DecidableEq, Repr

/-- `mstart` of Src2 `b` (rule R203). -/
def mstartStep (b md : Word) : MdStep :=
  let r := subC 0 b
  { result := if md.msb then r.sum else 0, md := md <<< 1, overflow := md.msb && r.overflow }

/-- `mstep` of Src1 `a` and Src2 `b` (rule R204). -/
def mstepStep (a b md : Word) : MdStep :=
  let d := a <<< 1
  let r := addC d b false
  { result := if md.msb then r.sum else d, md := md <<< 1, overflow := md.msb && r.overflow }

/-- `dstep` of Src1 `a` and Src2 `b` (rule R202). -/
def dstepStep (a b md : Word) : MdStep :=
  let d := a <<< 1 ||| (BitVec.ofBool md.msb).setWidth 32
  let r := subC d b
  { result := if r.sum.msb then d else r.sum
    md := if r.sum.msb then md <<< 1 else md <<< 1 ||| 1#32
    overflow := r.overflow }

/-- MD is not settled: the step before was `movtos md` (rule R355), or the instruction is the first after an interrupt
or overflow entry (rule R357). -/
def State.mdUnsettled (s : State) : Bool := s.mdMoved || s.window == .first

/-- The MD an instruction gets when it reads it: a draw where MD is not settled. -/
def State.mdSeen (s : State) : Word := if s.mdUnsettled then Config.draw s.tick .mdIn else s.md

/-- A step instruction with its outcome computed: the overflow trap with nothing written (rules R200, R312); else Dest
and MD, which are draws where MD is not settled (rules R355, R357). -/
def mdInstruction (i : OvfInstr) (op : MdOp) (a b : Word) (r : MdStep) (dest : Reg) (s : State) : State :=
  if s.overflowTraps i (mdOverflow s.params op a b s.mdSeen r.overflow) then s.enterException .overflow
  else
    let v := if s.mdUnsettled then Config.draw s.tick .dest else r.result
    let md := if s.mdUnsettled then Config.draw s.tick .md else r.md
    { s.writeGpr dest v with md := md }.retireNext

/-- `mstart` (rule R203). -/
def execMstart (src2 dest : Reg) (s : State) : Result :=
  .next (mdInstruction .mstart .mstart 0 (s.src2 src2) (mstartStep (s.src2 src2) s.mdSeen) dest s)

/-- `mstep` (rule R204). -/
def execMstep (src1 src2 dest : Reg) (s : State) : Result :=
  .next (mdInstruction .mstep .mstep (s.src1 src1) (s.src2 src2)
    (mstepStep (s.src1 src1) (s.src2 src2) s.mdSeen) dest s)

/-- `dstep` (rule R202). -/
def execDstep (src1 src2 dest : Reg) (s : State) : Result :=
  .next (mdInstruction .dstep .dstep (s.src1 src1) (s.src2 src2)
    (dstepStep (s.src1 src1) (s.src2 src2) s.mdSeen) dest s)

end Sys2Proof.Machine
end

