-- ==== Sys2Proof/Machine/Dispatch.lean ====
section
/-! DEFINITION. The meaning of every instruction: one arm per constructor of `Instr`, one direct call each. A meaning is
one whole step of rule R132 from the point where the instruction is decoded: it ends in `State.retire` or in
`State.enterException`. -/

namespace Sys2Proof.Machine

open Sys2Proof

def exec (i : Instr) (s : State) : Host.Outcome State Fault Refusal :=
  match i with
  | .ld offset src1 dest => Sys2Proof.Machine.execLd offset src1 dest s
  | .st offset src1 src2 => Sys2Proof.Machine.execSt offset src1 src2 s
  | .ldf offset src1 dest => Sys2Proof.Machine.execLdf offset src1 dest s
  | .stf offset src1 src2 => Sys2Proof.Machine.execStf offset src1 src2 s
  | .ldt offset src1 dest => Sys2Proof.Machine.execLdt offset src1 dest s
  | .stt offset src1 src2 => Sys2Proof.Machine.execStt offset src1 src2 s
  | .movfrc copI src1 dest => Sys2Proof.Machine.execMovfrc copI src1 dest s
  | .movtoc copI src1 src2 => Sys2Proof.Machine.execMovtoc copI src1 src2 s
  | .aluc copI src1 => Sys2Proof.Machine.execAluc copI src1 s
  | .beq src1 src2 disp => Sys2Proof.Machine.execBeq src1 src2 disp s
  | .beqsq src1 src2 disp => Sys2Proof.Machine.execBeqsq src1 src2 disp s
  | .bge src1 src2 disp => Sys2Proof.Machine.execBge src1 src2 disp s
  | .bgesq src1 src2 disp => Sys2Proof.Machine.execBgesq src1 src2 disp s
  | .bhs src1 src2 disp => Sys2Proof.Machine.execBhs src1 src2 disp s
  | .bhssq src1 src2 disp => Sys2Proof.Machine.execBhssq src1 src2 disp s
  | .blo src1 src2 disp => Sys2Proof.Machine.execBlo src1 src2 disp s
  | .blosq src1 src2 disp => Sys2Proof.Machine.execBlosq src1 src2 disp s
  | .blt src1 src2 disp => Sys2Proof.Machine.execBlt src1 src2 disp s
  | .bltsq src1 src2 disp => Sys2Proof.Machine.execBltsq src1 src2 disp s
  | .bne src1 src2 disp => Sys2Proof.Machine.execBne src1 src2 disp s
  | .bnesq src1 src2 disp => Sys2Proof.Machine.execBnesq src1 src2 disp s
  | .add src1 src2 dest => Sys2Proof.Machine.execAdd src1 src2 dest s
  | .dstep src1 src2 dest => Sys2Proof.Machine.execDstep src1 src2 dest s
  | .mstart src2 dest => Sys2Proof.Machine.execMstart src2 dest s
  | .mstep src1 src2 dest => Sys2Proof.Machine.execMstep src1 src2 dest s
  | .sub src1 src2 dest => Sys2Proof.Machine.execSub src1 src2 dest s
  | .subnc src1 src2 dest => Sys2Proof.Machine.execSubnc src1 src2 dest s
  | .and src1 src2 dest => Sys2Proof.Machine.execAnd src1 src2 dest s
  | .bic src1 src2 dest => Sys2Proof.Machine.execBic src1 src2 dest s
  | .not src1 dest => Sys2Proof.Machine.execNot src1 dest s
  | .or src1 src2 dest => Sys2Proof.Machine.execOr src1 src2 dest s
  | .xor src1 src2 dest => Sys2Proof.Machine.execXor src1 src2 dest s
  | .mov src1 dest => Sys2Proof.Machine.execMov src1 dest s
  | .asr src1 dest amount => Sys2Proof.Machine.execAsr src1 dest amount s
  | .rotlb src1 src2 dest => Sys2Proof.Machine.execRotlb src1 src2 dest s
  | .rotlcb src1 src2 dest => Sys2Proof.Machine.execRotlcb src1 src2 dest s
  | .sh src1 src2 dest amount => Sys2Proof.Machine.execSh src1 src2 dest amount s
  | .nop => Sys2Proof.Machine.execNop s
  | .addi src1 immed dest => Sys2Proof.Machine.execAddi src1 immed dest s
  | .jpc => Sys2Proof.Machine.execJpc s
  | .jpcrs => Sys2Proof.Machine.execJpcrs s
  | .jspci src1 immed dest => Sys2Proof.Machine.execJspci src1 immed dest s
  | .movfrs spec dest => Sys2Proof.Machine.execMovfrs spec dest s
  | .movtos src1 spec => Sys2Proof.Machine.execMovtos src1 spec s
  | .trap vector => Sys2Proof.Machine.execTrap vector s
  | .hsc => Sys2Proof.Machine.execHsc s
  | .fadd f1 f2 => Sys2Proof.Machine.execFadd f1 f2 s
  | .fsub f1 f2 => Sys2Proof.Machine.execFsub f1 f2 s
  | .fmul f1 f2 => Sys2Proof.Machine.execFmul f1 f2 s
  | .fdiv f1 f2 => Sys2Proof.Machine.execFdiv f1 f2 s
  | .cvtif f1 f2 => Sys2Proof.Machine.execCvtif f1 f2 s
  | .cvtfi f1 f2 => Sys2Proof.Machine.execCvtfi f1 f2 s
  | .imul f1 f2 => Sys2Proof.Machine.execImul f1 f2 s
  | .idiv f1 f2 => Sys2Proof.Machine.execIdiv f1 f2 s
  | .mod f1 f2 => Sys2Proof.Machine.execMod f1 f2 s
  | .movif src2 f1 => Sys2Proof.Machine.execMovif src2 f1 s
  | .movfi f1 dest => Sys2Proof.Machine.execMovfi f1 dest s

end Sys2Proof.Machine
end

