-- ==== Sys2Proof/Machine/Step.lean ====
section
/-! DEFINITION. One step of the machine (rules R132, R310) and the state in which a given instruction is fetched next. -/

namespace Sys2Proof.Machine

/-- Decode a fetched word and run it; a reserved word has no step (rules R104, R106). -/
def State.runWord (s : State) (w : Word) : Host.Outcome State Fault Refusal :=
  match decode w with
  | .ok i => exec i s
  | .error why => .fault (.reserved why)

/-- One step: an interrupt first (rule R310); else a squashed slot does nothing (rule R136); else the word at the head
of the queue is fetched, decoded and run (rule R132). -/
def step (s : State) : Host.Outcome State Fault Refusal :=
  if s.interruptTaken then .next (s.enterException .interrupt)
  else if s.pc.squashed then .next s.skipSquashed
  else s.runWord s.fetch

/-- `s` with the instruction word `w` (its low `nbits` bits) in the memory word that the head of the queue is fetched
from, the head not squashed, the word not among those the program has stored to or that are stale, and no interrupt at
the coming boundary: all that the fetch of exactly this instruction by the next step takes
(notes/assumptions/16.md). -/
def State.withFetchWord (s : State) (nbits w : Nat) : State :=
  { s with
    mem := Memory.writeWord s.mem s.fetchNumber (BitVec.ofNat 32 (w % 2 ^ nbits))
    pc := { s.pc with squashed := false }
    storeLog := s.storeLog.filter fun c => c.word != s.fetchNumber
    stale := s.stale.filter fun e => e.word != s.fetchNumber
    irq := false :: s.irq.tail }

end Sys2Proof.Machine
end

