-- ==== Sys2Proof/Safety.lean ====
section
/-! DEFINITION. The terms in which claims about the machine are stated: what a safe run is, which states are legal, and
what it means that an instruction completes, leaves something unchanged, or moves the queue and the chain. -/

namespace Sys2Proof.Machine

/-! ## Runs -/

/-- `n` steps from `s` meet no fault and no refusal. -/
def SafeFor (n : Nat) (s : State) : Prop := ∃ t, Sys2Proof.core.run n s = .next t

/-- The outcome is a next state with the given property. -/
def Completes (o : Result) (P : State → Prop) : Prop := ∃ t, o = .next t ∧ P t

/-! ## Invariants -/

/-- Memory has its canonical form. -/
def State.MemoryCanonical (s : State) : Prop := Memory.wf s.mem = true

/-- The parameters are what the spec asks of them (rules R31, R138). -/
def State.ParamsLegal (s : State) : Prop := s.params.WellFormed

/-- The storage behind register 0 holds 0 (rules R21, R41). -/
def State.ZeroRegister (s : State) : Prop := s.x[0] = 0

/-- The chain invariant of rule R138 in its inductive form: the ghost counter counts the chain entries that hold the
addresses of the queue, and is 0 while the chain is frozen. -/
def State.ChainInvariant (s : State) : Prop :=
  (1 ≤ s.k → s.chain.c1 = s.pc2.addr) ∧ (2 ≤ s.k → s.chain.c2 = s.pc1.addr) ∧
    (3 ≤ s.k → s.chain.c3 = s.pc.addr) ∧ (s.psw.cur.S = false → s.k = 0)

/-- No word is recorded as stale twice (rule R78). -/
def State.StaleNodup (s : State) : Prop := (s.stale.map fun e => e.word).Nodup

/-- All of it. -/
def State.Inv (s : State) : Prop :=
  s.MemoryCanonical ∧ s.ParamsLegal ∧ s.ZeroRegister ∧ s.ChainInvariant ∧ s.StaleNodup

/-! ## Frames: what a step leaves unchanged -/

/-- Every general register reads as before. -/
def SameGprs (s t : State) : Prop := ∀ r, t.gpr r = s.gpr r

/-- Every general register but `d` reads as before. -/
def SameGprsBut (d : Reg) (s t : State) : Prop := ∀ r, r ≠ d → t.gpr r = s.gpr r

/-- Register `d` holds `v`, or 0 if it is register 0 (rule R21), and every other register reads as before. -/
def WritesGpr (d : Reg) (v : Word) (s t : State) : Prop := t.gpr d = (if d = 0 then 0 else v) ∧ SameGprsBut d s t

/-- Every floating point register holds what it held. -/
def SameFprs (s t : State) : Prop := ∀ f, t.fpr f = s.fpr f

/-- Floating point register `f` holds `v` and every other holds what it held. -/
def WritesFpr (f : FReg) (v : Word) (s t : State) : Prop := t.fpr f = v ∧ ∀ g, g ≠ f → t.fpr g = s.fpr g

/-- Every byte of memory reads as before, and no word counts as newly stored to. -/
def SameMemory (s t : State) : Prop :=
  (∀ a, Memory.read t.mem a = Memory.read s.mem a) ∧
    t.storeLog = s.storeLog ∧ (t.stale.map fun e => e.word) = s.stale.map fun e => e.word

/-- A store by path `p` has completed: word `w` reads as `v`, every byte outside its four reads as before, the store is
the latest of its path that the external cache has seen, and `w` is stale, newly, while no other word has become so
(rules R67, R76, R78). -/
def WritesWord (p : Path) (w : WordNumber) (v : Word) (s t : State) : Prop :=
  Memory.readWord t.mem w = v ∧
    (∀ a, a < wordAddress w ∨ wordAddress w + 4 ≤ a → Memory.read t.mem a = Memory.read s.mem a) ∧
    t.storeLog = { path := p, word := w, data := v } :: s.storeLog ∧
    { word := w, age := 1, refilled := [] } ∈ t.stale ∧
    (t.stale.map fun e => e.word) = w :: (s.stale.map fun e => e.word).filter fun u => u != w

/-- MD is unchanged. -/
def SameMd (s t : State) : Prop := t.md = s.md

/-- The whole PSW is unchanged. -/
def SamePsw (s t : State) : Prop := t.psw = s.psw

/-- The coprocessors have seen no cycle. -/
def SameCops (s t : State) : Prop := t.copLog = s.copLog

/-- The parameters are unchanged. -/
def SameParams (s t : State) : Prop := t.params = s.params

/-- The processor's own special registers and the parameters are unchanged: PSW and MD. -/
def SameProcessor (s t : State) : Prop := SamePsw s t ∧ SameMd s t ∧ SameParams s t

/-- The PSW, MD, the floating point registers, the coprocessors and the parameters are unchanged. -/
def KeepsSpecial (s t : State) : Prop :=
  SamePsw s t ∧ SameMd s t ∧ SameFprs s t ∧ SameCops s t ∧ SameParams s t

/-! ## How a step moves the queue and the chain -/

/-- The queue moves on by one entry, with `next` entering it under the PSW.U that the step leaves, the two waiting
entries squashed if `squash` (rules R132, R133, R136). -/
def MovesQueue (next : Word) (squash : Bool) (s t : State) : Prop :=
  t.pc = s.pc1.mark squash ∧ t.pc1 = s.pc2.mark squash ∧
    t.pc2 = { addr := next, user := t.psw.cur.U, squashed := false }

/-- The chain shifts with `next` if the step leaves PSW.S = 1 and stays otherwise; the ghost counter counts (rules R137,
R138). -/
def MovesChain (next : Word) (s t : State) : Prop :=
  t.chain = (if t.psw.cur.S then s.chain.shift next else s.chain) ∧ t.k = (if t.psw.cur.S then s.k + 1 else 0)

/-- Both. -/
def Moves (next : Word) (squash : Bool) (s t : State) : Prop := MovesQueue next squash s t ∧ MovesChain next s t

/-- The step goes on in straight line: the incrementer's address enters the queue (rule R134). -/
def GoesOn (s t : State) : Prop := Moves (s.pc2.addr + 1) false s t

/-- No register is in the load-slot shadow (rule R351). -/
def State.NoLoadShadow (s : State) : Prop := ∀ l, some l ∉ s.loadShadow

/-- What is left of a load-slot shadow when a register is written (rule R351). -/
def shadowBut (written : Option Loaded) (shadow : List (Option Loaded)) : List (Option Loaded) :=
  match written with
  | some l => forgetLoaded l shadow
  | none => shadow

/-- What the step leaves for the next one to see: the load-slot shadow, which `loaded` enters and the register `written`
leaves, and which holds the last `LOAD_SLOTS` steps (rule R351), whether MD has to settle (rule R355), the window after
an entry one step on (rule R357), and the model's own clock. What `LOAD_SLOTS` other than 1 means is the model's reading
of rule R351, which gives no procedure for it (notes/assumptions/5.md). -/
def LeavesShadow (loaded written : Option Loaded) (mdMoved : Bool) (s t : State) : Prop :=
  t.loadShadow = (loaded :: shadowBut written s.loadShadow).take s.params.loadSlots ∧ t.mdMoved = mdMoved ∧
    t.window = s.window.advance ∧ t.slotSquashed = false ∧ t.irq = s.irq.tail ∧ t.tick = s.tick + 1

/-- A register-to-register instruction has completed: `d` holds `v` and nothing else has changed but the queue and the
chain. -/
def OnlyWritesGpr (d : Reg) (v : Word) (s t : State) : Prop :=
  WritesGpr d v s t ∧ KeepsSpecial s t ∧ SameMemory s t ∧ GoesOn s t ∧ LeavesShadow none (some (.gpr d)) false s t

/-- A coprocessor cycle has gone out: it is the latest the coprocessors have seen, and the processor's PSW and MD, the
FPU and the parameters are as before (rule R166). -/
def SendsCycle (c : CopCycle) (s t : State) : Prop :=
  t.copLog = c :: s.copLog ∧ SameProcessor s t ∧ SameFprs s t

/-- A branch has completed: `next` is the displacement adder's address where the condition holds and the incrementer's
where it does not, a branch with SQ squashing its two slots then; nothing else changes (rule R181). -/
def Branches (condition : Prop) (squashing : Bool) (disp : BitVec 16) (s t : State) : Prop :=
  (condition → Moves (s.pc2.addr + sext16 disp) false s t) ∧
    (¬ condition → Moves (s.pc2.addr + 1) squashing s t) ∧
    SameGprs s t ∧ KeepsSpecial s t ∧ SameMemory s t ∧ LeavesShadow none none false s t

/-- The two branches with condition code `cond`: their words for all registers and displacements, the condition as the
signals of the compare have it and as the operands have it, and their effect without and with SQ (rules R182 to R187). -/
def BranchPair (cond : BitVec 3) (plain squashing : Reg → Reg → BitVec 16 → Instr) (signal : Compare → Bool)
    (holds : Word → Word → Prop) : Prop :=
  (∀ x y, signal (compareWords x y) = true ↔ holds x y) ∧
  ∀ (a b : Reg) (o : BitVec 16),
    decode (0b00#2 ++ cond ++ regBits a ++ regBits b ++ 0#1 ++ o) = .ok (plain a b o) ∧
    decode (0b00#2 ++ cond ++ regBits a ++ regBits b ++ 1#1 ++ o) = .ok (squashing a b o) ∧
    ∀ s : State,
      Completes (exec (plain a b o) s) (Branches (holds (s.src1 a) (s.src2 b)) false o s) ∧
      Completes (exec (squashing a b o) s) (Branches (holds (s.src1 a) (s.src2 b)) true o s)

/-- The queue has moved on with `next`, and the chain has shifted whatever PSW.S is (rule R139). -/
def JumpsThroughChain (next : Word) (s t : State) : Prop :=
  MovesQueue next false s t ∧ t.chain = s.chain.shift next ∧ t.k = (if t.psw.cur.S then s.k + 1 else 0)

/-- The integer is a signed 32-bit number. -/
def FitsSigned (n : Int) : Prop := -2 ^ 31 ≤ n ∧ n < 2 ^ 31

/-! ## Exception entry -/

/-- The chain holds what the handler needs (rules R315, R316): for an interrupt and an overflow trap the three queue
entries, where the chain was refilled, an entry under a squash mark as 0; for a `trap` the chain as it stood, but that
PC-4 may be 0 where the instruction before was a squashed slot. -/
def SavesAddresses (s t : State) : Exception → Prop
  | .interrupt => 3 ≤ s.k →
      t.chain.c4 = s.pc.restart ∧ t.chain.c3 = s.pc1.restart ∧ t.chain.c2 = s.pc2.restart
  | .overflow => 3 ≤ s.k →
      t.chain.c4 = s.pc.restart ∧ t.chain.c3 = s.pc1.restart ∧ t.chain.c2 = s.pc2.restart
  | .trap _ => t.chain.c1 = s.chain.c1 ∧ t.chain.c2 = s.chain.c2 ∧ t.chain.c3 = s.chain.c3 ∧
      (t.chain.c4 = s.chain.c4 ∨ s.slotSquashed = true ∧ 4 ≤ s.k ∧ t.chain.c4 = 0)

/-- The machine is at the handler of `kind` (rules R314 to R316): three system-space entries, the PSW and the chain of
those rules, an empty load-slot shadow (rule R351), an MD that need not settle, the window of hazardous reads open after
an interrupt or an overflow trap (rule R357; over a `trap` entry it counts down, the model's choice,
notes/assumptions/5.md), and general registers, MD, memory, the FPU and the coprocessors as before. -/
def AtHandler (kind : Exception) (s t : State) : Prop :=
  (t.pc = QEntry.system kind.entry ∧ t.pc1 = QEntry.system (kind.entry + 1) ∧
    t.pc2 = QEntry.system (kind.entry + 2)) ∧
  (t.psw.oth = s.psw.cur ∧ t.psw.cur.M = true ∧ t.psw.cur.U = false ∧ t.psw.cur.S = false ∧
    t.psw.cur.V = true ∧ (t.psw.cur.I = false ↔ kind = .interrupt) ∧ (t.psw.cur.O = true ↔ kind = .overflow) ∧
    (t.psw.e = true ↔ s.params.eDepth ≤ s.k)) ∧
  SavesAddresses s t kind ∧ t.k = 0 ∧
  (t.loadShadow = [] ∧ t.mdMoved = false ∧ t.slotSquashed = false ∧
    t.window = match kind with
      | .interrupt => .first
      | .overflow => .first
      | .trap _ => s.window.advance) ∧
  SameGprs s t ∧ SameMd s t ∧ SameFprs s t ∧ SameMemory s t ∧ SameCops s t ∧ SameParams s t

/-! ## Instructions of one shape -/

/-- `i` is the FPU operation `op` with function number `func`: with an FPU it puts the result on its two registers into
the second and changes nothing else; without one it is a plain cycle to COP# 0 (rules R250, R254 to R262). -/
def FpuInstruction (i : FReg → FReg → Instr) (op : FpOp) (func : BitVec 6) : Prop :=
  ∀ (s : State) (f g : FReg),
    (s.params.hasFpu = true → Completes (exec (i f g) s) fun t =>
      WritesFpr g (fpResult op (s.readFpr .fsrc1 f) (s.readFpr .fsrc2 g)) s t ∧ SameGprs s t ∧ SameProcessor s t ∧
        SameCops s t ∧ SameMemory s t ∧ GoesOn s t ∧ LeavesShadow none (some (.fpr g)) false s t) ∧
    (s.params.hasFpu = false → Completes (exec (i f g) s) fun t => SameGprs s t ∧
      SendsCycle { kind := .alu, addr := sext17 (fpuCopI func f g), data := 0, user := s.psw.cur.U } s t ∧
        SameMemory s t ∧ GoesOn s t ∧ LeavesShadow none none false s t)

/-- `w` is a normal number of the FPU's format and `q` its value: `(-1)^s * 2^(exp-127) * (1 + fraction)` (rule R253). -/
def FpValue (w : Word) (q : Rat) : Prop :=
  1 ≤ (field w 23 8).toNat ∧ (field w 23 8).toNat ≤ 254 ∧
    q = (if w.getLsbD 31 then -1 else 1) * 2 ^ (((field w 23 8).toNat : Int) - 127) *
      (1 + ((field w 0 23).toNat : Rat) / 2 ^ 23)

/-- `i` puts `value` of its operands into `d` and does nothing else, in every state. -/
def AlwaysWrites (i : Instr) (d : Reg) (value : State → Word) : Prop :=
  ∀ s : State, Completes (exec i s) (OnlyWritesGpr d (value s) s)

/-- `i` puts the low 32 bits of the integer `exact` into `d`; but where `exact` is no signed 32-bit number, PSW.V = 0 and
the instruction is in `OVF_SET`, it writes nothing and takes the overflow trap (rules R200, R312). -/
def WritesOrTraps (i : Instr) (inSet : OvfSet → Bool) (d : Reg) (exact : State → Int) : Prop :=
  ∀ s : State,
    (FitsSigned (exact s) ∨ s.psw.cur.V = true ∨ inSet s.params.ovfSet = false →
      Completes (exec i s) (OnlyWritesGpr d (BitVec.ofInt 32 (exact s)) s)) ∧
    (¬ FitsSigned (exact s) → s.psw.cur.V = false → inSet s.params.ovfSet = true →
      Completes (exec i s) (AtHandler .overflow s))

/-- A step instruction on a settled MD: `result` goes to `d` and `md` to MD (rules R202 to R204). -/
def StepsMd (i : Instr) (d : Reg) (result md : Word) (s : State) : Prop :=
  Completes (exec i s) fun t => WritesGpr d result s t ∧ t.md = md ∧ SamePsw s t ∧ SameFprs s t ∧ SameCops s t ∧
    SameParams s t ∧ SameMemory s t ∧ GoesOn s t ∧ LeavesShadow none (some (.gpr d)) false s t

/-- The step instruction in `OVF_SET` (rule R200). -/
def mdOvfInstr : MdOp → OvfInstr
  | .mstart => .mstart
  | .mstep => .mstep
  | .dstep => .dstep

/-- The step instruction `op` on `a`, `b` and MD takes the overflow trap: PSW.V = 0, it is in `OVF_SET`, and the predicate
`MD_OVF` holds, which is `adder` by the spec's default and else the platform's (rules R200, R220, R312). -/
def State.MdTraps (s : State) (op : MdOp) (a b md : Word) (adder : Prop) : Prop :=
  s.psw.cur.V = false ∧ inOvfSet s.params.ovfSet (mdOvfInstr op) = true ∧
    (s.params.mdOvf = .adder → adder) ∧ (s.params.mdOvf = .platform → Config.mdOvfPlatform op a b md = true)

/-- Where it `traps`, `i` takes the overflow trap with nothing written, and elsewhere it makes its step (rules R200, R202
to R204, R312). -/
def StepsMdOrTraps (i : Instr) (d : Reg) (result md : Word) (traps : Prop) (s : State) : Prop :=
  (traps → Completes (exec i s) (AtHandler .overflow s)) ∧ (¬ traps → StepsMd i d result md s)

/-! ## Sequences -/

/-- The instructions of a list executed one after another, each as the whole step it is. -/
def execAll : List Instr → State → Result
  | [], s => .next s
  | i :: rest, s =>
    match exec i s with
    | .next t => execAll rest t
    | .fault r => .fault r
    | .refused r => .refused r

/-- The step ends in a fault for a word or a state that the spec gives no step (file 93). -/
def Stops (o : Result) (why : Fault) : Prop := o = .fault why

end Sys2Proof.Machine
end

