-- ==== Sys2Proof/Certificates/Slice0/Obligations.lean ====
section
/-! DEFINITION. The statements for the provers. Each docstring names the rules of spec/ the statement formalises; a
statement that rests on a choice of the model names the row of notes/assumptions that makes it. `s.src1 a` and
`s.src2 b` are the operands an instruction gets: the register, or a draw in a hazard shadow (`OperandsRead` says
which). -/

open Sys2Proof Sys2Proof.Machine

/-! ## Encoding -/

/-- Every well-formed instruction is what its word decodes to (rules R92 to R95, R98 to R100). -/
def Obligations.EncodeThenDecode : Prop := ∀ i : Instr, i.wf = true → decode (encode i) = .ok i

/-- What the decoder answers is well formed and has the word it was read from, but for the ignored bit w[21] of `ldf`
and `stf`; every word with TY = 10 is an instruction (rules R104, R105, R252). -/
def Obligations.DecodeThenEncode : Prop :=
  (∀ w i, decode w = .ok i → i.wf = true ∧
    (encode i = w ∨ field w 30 2 = 0b10#2 ∧ field w 27 1 = 0#1 ∧ field w 29 1 = 1#1 ∧
      encode i = w &&& ~~~0x00200000#32)) ∧
  ∀ w, field w 30 2 = 0b10#2 → ∃ i, decode w = .ok i

/-- Words printed in the spec decode to the instructions they are printed for (rules R160, R184, R186, R201, R214, R217,
R233, R234, R236, R254, R263). -/
def Obligations.PrintedWordsDecode : Prop :=
  decode 0x80440008#32 = .ok (.ld 8 1 2) ∧
  decode 0x114D0100#32 = .ok (.bhssq 5 6 0x100) ∧
  decode 0x19C1FFFF#32 = .ok (.bltsq 7 0 0xFFFF) ∧
  decode 0x60443019#32 = .ok (.add 1 2 3) ∧
  decode 0x49003168#32 = .ok (.asr 4 3 5) ∧
  decode 0x49045262#32 = .ok (.sh 4 2 5 7) ∧
  decode 0xC03E0400#32 = .ok (.jspci 0 0x400 31) ∧
  decode 0xD83E0004#32 = .ok (.movfrs .pcm4 31) ∧
  decode 0xF00005EB#32 = .ok (.trap 0x42) ∧
  decode 0xA8000012#32 = .ok (.fadd 1 2) ∧
  decode 0xB8080905#32 = .ok (.movif 4 5)

/-- Words with an opcode, condition, Comp Func, Spec or shift field that names nothing have no step in any state (rules
R107, R108, R109, R111, R112, R113). -/
def Obligations.ReservedOpcodesStop : Prop :=
  ∀ (w : Word) (s : State),
    (field w 30 2 = 0b00#2 ∧ (field w 27 3 = 0b000#3 ∨ field w 27 3 = 0b100#3) ∨
      field w 30 2 = 0b01#2 ∧ field w 27 3 ≠ 0b000#3 ∧ field w 27 3 ≠ 0b001#3 ∧ field w 27 3 ≠ 0b100#3 ∨
      field w 30 2 = 0b01#2 ∧ field w 27 3 = 0b100#3 ∧ field w 0 12 ∉
        [0x019#12, 0x066#12, 0x026#12, 0x023#12, 0x00B#12, 0x00F#12, 0x03B#12, 0x01B#12] ∨
      field w 30 2 = 0b01#2 ∧ field w 27 3 = 0b000#3 ∧ field w 0 12 ∉ [0x166#12, 0x0E6#12, 0x099#12] ∨
      field w 30 2 = 0b01#2 ∧ field w 27 3 = 0b001#3 ∧ field w 7 5 ∉ [0b00010#5, 0b00100#5] ∧
        field w 0 12 ∉ [0x0C0#12, 0x080#12] ∨
      field w 30 2 = 0b01#2 ∧ field w 27 3 = 0b001#3 ∧ field w 7 5 ∈ [0b00010#5, 0b00100#5] ∧
        field w 0 4 ∉ [0b0001#4, 0b0010#4, 0b0100#4, 0b1000#4] ∨
      field w 30 2 = 0b11#2 ∧ field w 27 3 = 0b001#3 ∨
      field w 30 2 = 0b11#2 ∧ field w 27 3 ∈ [0b010#3, 0b011#3] ∧
        field w 0 3 ∉ [0b001#3, 0b010#3, 0b100#3]) →
    ∃ why, Stops (s.runWord w) (.reserved why)

/-- Words that match an instruction but for a field the opcode map wants zero have no step in any state (rule R110). -/
def Obligations.MustBeZeroFieldsStop : Prop :=
  ∀ (w : Word) (s : State),
    (field w 30 2 = 0b01#2 ∧ field w 27 3 = 0b000#3 ∧ field w 0 12 = 0x0E6#12 ∧ field w 22 5 ≠ 0#5 ∨
      field w 30 2 = 0b01#2 ∧ field w 27 3 = 0b100#3 ∧ field w 0 12 = 0x00F#12 ∧ field w 17 5 ≠ 0#5 ∨
      field w 30 2 = 0b01#2 ∧ field w 27 3 = 0b001#3 ∧ field w 7 5 = 0b00010#5 ∧ field w 17 5 ≠ 0#5 ∨
      field w 30 2 = 0b11#2 ∧ field w 27 3 ∈ [0b101#3, 0b111#3] ∧ field w 0 27 ≠ 3#27 ∨
      field w 30 2 = 0b11#2 ∧ field w 27 3 = 0b110#3 ∧ (field w 11 16 ≠ 0#16 ∨ field w 0 3 ≠ 0b011#3) ∨
      field w 30 2 = 0b11#2 ∧ field w 27 3 = 0b011#3 ∧ (field w 22 5 ≠ 0#5 ∨ field w 3 14 ≠ 0#14) ∨
      field w 30 2 = 0b11#2 ∧ field w 27 3 = 0b010#3 ∧ field w 3 19 ≠ 0#19) →
    ∃ why, Stops (s.runWord w) (.reserved why)

/-! ## The step -/

/-- Where no interrupt is taken and the head of the queue is not squashed, and the four bytes at the head's address (the
default map; user state forces the top address bit) decode to a well-formed instruction, in a word of which the
instruction cache can hold no older copy (`FetchReadsMappedWord` says when) and that `stt` has not stored to, the step
is that instruction's; where they decode to none, there is no step (rules R72, R104, R106, R132). -/
def Obligations.StepRunsDecodedInstruction : Prop :=
  ∀ (s : State) (a : Nat), s.interruptTaken = false → s.pc.squashed = false → s.params.fetchMap = .shifted →
    s.params.userFetchForce = 29 →
    a = (if s.pc.user then 2 ^ 31 + 4 * (s.pc.addr.toNat % 2 ^ 29) else 4 * (s.pc.addr.toNat % 2 ^ 30)) →
    s.fetchesStale s.fetchNumber = false → s.mixedAccess .cached s.fetchNumber = false →
    (∀ i, decodeBytes [Memory.read s.mem a, Memory.read s.mem (a + 1), Memory.read s.mem (a + 2),
        Memory.read s.mem (a + 3)] = .ok i → step s = exec i s ∧ i.wf = true) ∧
    ∀ why, decodeBytes [Memory.read s.mem a, Memory.read s.mem (a + 1), Memory.read s.mem (a + 2),
        Memory.read s.mem (a + 3)] = .error why → Stops (step s) (.reserved why)

/-- What a fetch finds. Under any map: memory's word, where every recorded store to the word is out of the queue's reach
and its older copy gone, either because the platform says that fetches see stores, or because the word is in user space
and every buffer of the instruction cache, whatever the geometry, has been filled from system space since; a draw where
one is not. By the defaults a user-state fetch goes to user space. An exception entry leaves the records as they are.
Every other step makes each older by one, and adds its own cache index to each that the queue has turned for, if its
instruction came from system space and the index is not there yet; a store makes a new record of its word in place of an
older one, and nothing else does (rules R71, R72, R78, R79; the draw, the count of steps after which the queue has
turned, and the records of an exception entry are the model's choice, notes/assumptions/8.md). -/
def Obligations.FetchReadsMappedWord : Prop :=
  ∀ s : State,
    ((∀ c ∈ s.storeLog, c.word = s.fetchNumber → c.path = .cached) →
      (∀ e ∈ s.stale, e.word = s.fetchNumber → 4 ≤ e.age ∧ (s.params.fetchCoherent = true ∨
        2 ^ 31 ≤ wordAddress e.word ∧
          ∀ j, ∃ i ∈ e.refilled, Config.cacheBuffer i = Config.cacheBuffer j)) →
      s.fetch = Memory.readWord s.mem s.fetchNumber) ∧
    (∀ e ∈ s.stale, e.word = s.fetchNumber →
      (e.age < 4 ∨ s.params.fetchCoherent = false ∧ (wordAddress e.word < 2 ^ 31 ∨
        ∃ j, ∀ i ∈ e.refilled, Config.cacheBuffer i ≠ Config.cacheBuffer j)) →
      s.fetch = Config.draw s.tick .fetch) ∧
    (s.pc.user = true → s.params.fetchMap = .shifted → s.params.userFetchForce = 29 →
      2 ^ 31 ≤ wordAddress s.fetchNumber) ∧
    (∀ e, s.ageStale e = { e with
      age := e.age + 1
      refilled :=
        if 4 ≤ e.age ∧ wordAddress s.fetchNumber < 2 ^ 31 ∧ field s.pc.addr 0 6 ∉ e.refilled then
          field s.pc.addr 0 6 :: e.refilled
        else e.refilled }) ∧
    ∀ t, step s = .next t →
      ((∃ kind, t = s.enterException kind) → t.stale = s.stale ∧ t.storeLog = s.storeLog) ∧
      ((¬ ∃ kind, t = s.enterException kind) →
        (t.stale = s.stale.map s.ageStale ∧ t.storeLog = s.storeLog) ∨
        ∃ p w v, t.storeLog = { path := p, word := w, data := v } :: s.storeLog ∧
          t.stale = { word := w, age := 1, refilled := [] } :: (s.stale.filter fun e => e.word != w).map s.ageStale)

/-- A well-formed instruction placed where the next step fetches is run by that step, from every state (the model's
interface to its host, notes/assumptions/16.md). -/
def Obligations.PlacedInstructionRuns : Prop :=
  ∀ (s : State) (i : Instr), i.wf = true →
    step (s.withFetchWord 32 (encode i).toNat) = exec i (s.withFetchWord 32 (encode i).toNat) ∧
      SameGprs s (s.withFetchWord 32 (encode i).toNat) ∧ KeepsSpecial s (s.withFetchWord 32 (encode i).toNat) ∧
      (s.withFetchWord 32 (encode i).toNat).chain = s.chain ∧
      Memory.readWord (s.withFetchWord 32 (encode i).toNat).mem s.fetchNumber = encode i ∧
      ∀ a, a < wordAddress s.fetchNumber ∨ wordAddress s.fetchNumber + 4 ≤ a →
        Memory.read (s.withFetchWord 32 (encode i).toNat).mem a = Memory.read s.mem a

/-- A squashed slot does nothing but occupy its step: registers, PSW, MD, memory, FPU and coprocessors are as before,
the queue goes on, and the chain shifts if PSW.S = 1 (rules R136, R137). That the window of rule R357 counts down over
it, and that it counts as a step for `LOAD_SLOTS` other than 1, is the model's reading (notes/assumptions/5.md). -/
def Obligations.SquashedSlotDoesNothing : Prop :=
  ∀ s : State, s.interruptTaken = false → s.pc.squashed = true →
    Completes (step s) fun t =>
      SameGprs s t ∧ KeepsSpecial s t ∧ SameMemory s t ∧ GoesOn s t ∧
        t.loadShadow = (none :: s.loadShadow).take s.params.loadSlots ∧ t.mdMoved = false ∧
        t.window = s.window.advance ∧ t.slotSquashed = true

/-- Before each step: with the interrupt line high and PSW.M = 0 the interrupt is taken, whatever is at the head of the
queue, which empties the load-slot shadow and opens the window of hazardous reads; with PSW.M = 1 or the line low it is
not, and the head of the queue has its turn (rules R310, R314, R316, R320, R351, R357). -/
def Obligations.InterruptComesFirst : Prop :=
  ∀ s : State,
    (s.irqNow = true → s.psw.cur.M = false → Completes (step s) fun t =>
      AtHandler .interrupt s t ∧ t.pc.addr = 0 ∧ t.window = .first) ∧
    (s.irqNow = false ∨ s.psw.cur.M = true → step s = if s.pc.squashed then .next s.skipSquashed else s.runWord s.fetch)

/-- A step stops for no reasons but those the spec gives it no step for: a reserved word (and `hsc`), an access to the
end of a shifting chain, a system-state `jpcrs` to a frozen chain, an FPU load or store without an FPU. It is never
refused (rules R106, R140, R141, R232, R240, R250, R300). -/
def Obligations.OnlyTheseStops : Prop :=
  ∀ s : State, (∀ r, step s ≠ .refused r) ∧
    ∀ why, step s = .fault why →
      (∃ r, decode s.fetch = .error r ∧ why = .reserved r) ∨
      (decode s.fetch = .ok .hsc ∧ why = .reserved .opUnused) ∨
      ((∃ d, decode s.fetch = .ok (.movfrs .pcm4 d)) ∧ s.psw.cur.S = true ∧ why = .chainShifting) ∨
      ((∃ a, decode s.fetch = .ok (.movtos a .pcm1)) ∧ s.psw.cur.S = true ∧ why = .chainShifting) ∨
      (decode s.fetch = .ok .jpcrs ∧ s.psw.cur.U = false ∧ s.psw.oth.S = false ∧ why = .returnToFrozenChain) ∨
      ((∃ o a d, decode s.fetch = .ok (.ldf o a d) ∨ decode s.fetch = .ok (.stf o a d)) ∧
        s.params.hasFpu = false ∧ why = .noFpu)

/-! ## Operands -/

/-- Register 0 reads as 0, by its number and as either operand, in every state, and a write to it leaves every register
as it was (rule R21). -/
def Obligations.RegisterZero : Prop :=
  ∀ s : State, s.gpr 0 = 0 ∧ s.src1 0 = 0 ∧ s.src2 0 = 0 ∧ ∀ v, SameGprs s (s.writeGpr 0 v)

/-- A register read gives what the register holds, but for the register in the load slot and, in the first two
instructions after an interrupt or overflow entry, every register but r0: those reads are draws. A floating point read
gives the register, or a draw in the load slot (rules R143, R351, R357). -/
def Obligations.OperandsRead : Prop :=
  ∀ s : State,
    (∀ r : Reg, some (.gpr r) ∉ s.loadShadow → s.window = .closed → s.src1 r = s.gpr r ∧ s.src2 r = s.gpr r) ∧
    (∀ r : Reg, r ≠ 0 → some (.gpr r) ∈ s.loadShadow ∨ s.window ≠ .closed →
      s.src1 r = Config.draw s.tick .src1 ∧ s.src2 r = Config.draw s.tick .src2) ∧
    (∀ (d : Draw) (f : FReg), some (.fpr f) ∉ s.loadShadow → s.readFpr d f = s.fpr f) ∧
    ∀ (d : Draw) (f : FReg), some (.fpr f) ∈ s.loadShadow → s.readFpr d f = Config.draw s.tick d

/-- The window of hazardous reads opens at an interrupt or overflow entry and at no other step, where it counts down by
one, so that it covers the handler's first two instructions and no more (rule R357). It counts down over a `trap` entry
too, which rule R357 does not say (the model's choice, notes/assumptions/5.md). -/
def Obligations.EntryWindowCountsDown : Prop :=
  ∀ s t : State,
    (step s = .next t → t.window =
      if t = s.enterException .interrupt ∨ t = s.enterException .overflow then .first else s.window.advance) ∧
    (s.interruptTaken = true → step s = .next (s.enterException .interrupt)) ∧
    (∀ i, exec i s = .next t → t.window ≠ s.window.advance → AtHandler .overflow s t) ∧
    ∀ v, exec (.trap v) s = .next t → t.window = s.window.advance

/-! ## Loads and stores -/

/-- `ld` and `ldt` put the word at the effective address into Dest, forced to user space in user state and without the
two low address bits; a Dest that is the base register gets a draw, Dest = 0 discards the word, and Dest enters the load
slot (rules R160, R164, R351, R352). -/
def Obligations.LoadsWriteDest : Prop :=
  ∀ (s : State) (o : BitVec 17) (a d : Reg),
    (Completes (exec (.ld o a d) s) fun t =>
      WritesGpr d (if d = a then Config.draw s.tick .dest
        else s.loadWord .cached (s.dataWord (s.effectiveAddress o a))) s t ∧
        KeepsSpecial s t ∧ SameMemory s t ∧ GoesOn s t ∧
        LeavesShadow (if d = 0 then none else some (.gpr d)) (some (.gpr d)) false s t) ∧
    Completes (exec (.ldt o a d) s) fun t =>
      WritesGpr d (if d = a then Config.draw s.tick .dest
        else s.loadWord .through (s.dataWord (s.effectiveAddress o a))) s t ∧
        KeepsSpecial s t ∧ SameMemory s t ∧ GoesOn s t ∧
        LeavesShadow (if d = 0 then none else some (.gpr d)) (some (.gpr d)) false s t

/-- `st` and `stt` write the four bytes of the word at the effective address with Src2 and leave every other byte and
every register; `st` counts as a store through the external cache and `stt` as one past it, and the word may be stale in
the instruction cache from then on (rules R161, R165, R76, R78). -/
def Obligations.StoresWriteWord : Prop :=
  ∀ (s : State) (o : BitVec 17) (a b : Reg),
    (Completes (exec (.st o a b) s) fun t =>
      WritesWord .cached (s.dataWord (s.effectiveAddress o a)) (s.src2 b) s t ∧ SameGprs s t ∧ KeepsSpecial s t ∧
        GoesOn s t ∧ LeavesShadow none none false s t) ∧
    Completes (exec (.stt o a b) s) fun t =>
      WritesWord .through (s.dataWord (s.effectiveAddress o a)) (s.src2 b) s t ∧ SameGprs s t ∧ KeepsSpecial s t ∧
        GoesOn s t ∧ LeavesShadow none none false s t

/-- With an FPU, `ldf` puts the word at the effective address into the floating point register, which enters the load
slot, and `stf` writes that word from one, as a store through the external cache; no general register is written.
Without an FPU neither has a step (rules R162, R163, R250, R76, R78). -/
def Obligations.FloatLoadStore : Prop :=
  ∀ (s : State) (o : BitVec 17) (a : Reg) (f : FReg),
    (s.params.hasFpu = true →
      (Completes (exec (.ldf o a f) s) fun t =>
        WritesFpr f (s.loadWord .cached (s.dataWord (s.effectiveAddress o a))) s t ∧ SameGprs s t ∧
          SameProcessor s t ∧ SameCops s t ∧ SameMemory s t ∧ GoesOn s t ∧
          LeavesShadow (some (.fpr f)) (some (.fpr f)) false s t) ∧
      Completes (exec (.stf o a f) s) fun t =>
        WritesWord .cached (s.dataWord (s.effectiveAddress o a)) (s.readFpr .fsrc2 f) s t ∧ SameGprs s t ∧
          KeepsSpecial s t ∧ GoesOn s t ∧ LeavesShadow none none false s t) ∧
    (s.params.hasFpu = false → Stops (exec (.ldf o a f) s) .noFpu ∧ Stops (exec (.stf o a f) s) .noFpu)

/-- The effective address is the sum of the signed offset and the base, modulo 2^32; of the word a data access goes to,
the two low address bits never count, and in user state the top bit is 1 (rules R62, R63, R65). -/
def Obligations.DataAddress : Prop :=
  (∀ (s : State) (o : BitVec 17) (a : Reg),
    (s.effectiveAddress o a).toInt = (o.toInt + (s.src1 a).toInt).bmod (2 ^ 32)) ∧
  ∀ (s : State) (ea : Word), wordAddress (s.dataWord ea) =
    (if s.psw.cur.U then 2 ^ 31 + ea.toNat % 2 ^ 31 else ea.toNat) / 4 * 4

/-- A word that no store has reached by the other path is loaded as memory holds it; of one that a store has, a load
finds what the cache model says where `CACHE_VISIBLE` supplies one, and else a draw (the model's choice for rule R76,
notes/assumptions/7.md). A word just stored, by `st`, `stf` or `stt`, is loaded back by the same path, if the other path
has not stored to it. -/
def Obligations.LoadFindsStore : Prop :=
  ∀ (s : State) (w : WordNumber) (p : Path),
    ((∀ c ∈ s.storeLog, c.word = w → c.path = p) → s.loadWord p w = Memory.readWord s.mem w) ∧
    ((∃ c ∈ s.storeLog, c.word = w ∧ c.path ≠ p) →
      (s.params.cacheVisible = .refused → s.loadWord p w = Config.draw s.tick .load) ∧
      (s.params.cacheVisible = .platform →
        s.loadWord p w = Config.cacheModel s.tick s.storeLog p w (Memory.readWord s.mem w))) ∧
    ∀ (o : BitVec 17) (a b : Reg) (f : FReg) (t : State), s.dataWord (s.effectiveAddress o a) = w →
      (∀ c ∈ s.storeLog, c.word = w → c.path = p) →
      (p = .cached → exec (.st o a b) s = .next t → t.loadWord .cached w = s.src2 b) ∧
      (p = .cached → exec (.stf o a f) s = .next t → t.loadWord .cached w = s.readFpr .fsrc2 f) ∧
      (p = .through → exec (.stt o a b) s = .next t → t.loadWord .through w = s.src2 b)

/-- No step made in user state changes a byte of system space, whatever the instruction (rules R64, R65, R330). -/
def Obligations.UserCannotWriteSystemSpace : Prop :=
  ∀ s t : State, s.psw.cur.U = true → step s = .next t →
    ∀ a, a < 2 ^ 31 → Memory.read t.mem a = Memory.read s.mem a

/-! ## Coprocessors and the FPU -/

/-- A coprocessor cycle to COP# 1 to 7, or to COP# 0 without an FPU: the address word is CopI plus Src1, unforced, with
PSW.U beside it; `movtoc` drives Src2; `movfrc` puts the coprocessor's word into Dest, which enters the load slot;
`aluc`, and `movfrc` with Dest = 0, move no data (rules R166 to R169, R250, R351). A `movfrc` whose Dest is the base
register gets a draw instead (rule R352, decision D27; the draw is notes/assumptions/5.md). -/
def Obligations.CoprocessorCycles : Prop :=
  ∀ (s : State) (c : BitVec 17) (a b d : Reg),
    s.params.hasFpu = false ∨ (s.effectiveAddress c a).toNat / 2 ^ 14 % 8 ≠ 0 →
    (d ≠ 0 → Completes (exec (.movfrc c a d) s) fun t =>
      WritesGpr d (if d = a then Config.draw s.tick .dest else Config.copAnswer t.copLog) s t ∧
        SendsCycle { kind := .fromCop, addr := s.effectiveAddress c a, data := 0, user := s.psw.cur.U } s t ∧
        SameMemory s t ∧ GoesOn s t ∧ LeavesShadow (some (.gpr d)) (some (.gpr d)) false s t) ∧
    (Completes (exec (.movfrc c a 0) s) fun t => SameGprs s t ∧
      SendsCycle { kind := .alu, addr := s.effectiveAddress c a, data := 0, user := s.psw.cur.U } s t ∧
        SameMemory s t ∧ GoesOn s t ∧ LeavesShadow none none false s t) ∧
    (Completes (exec (.movtoc c a b) s) fun t => SameGprs s t ∧
      SendsCycle { kind := .toCop, addr := s.effectiveAddress c a, data := s.src2 b, user := s.psw.cur.U } s t ∧
        SameMemory s t ∧ GoesOn s t ∧ LeavesShadow none none false s t) ∧
    Completes (exec (.aluc c a) s) fun t => SameGprs s t ∧
      SendsCycle { kind := .alu, addr := s.effectiveAddress c a, data := 0, user := s.psw.cur.U } s t ∧
        SameMemory s t ∧ GoesOn s t ∧ LeavesShadow none none false s t

/-- The nine FPU operations: `f2 <- f1 op f2` with an FPU, and a plain cycle to COP# 0 without (rules R250, R254 to
R262). -/
def Obligations.FpuArithmetic : Prop :=
  FpuInstruction .fadd .fadd 0 ∧ FpuInstruction .fsub .fsub 1 ∧ FpuInstruction .fmul .fmul 2 ∧
  FpuInstruction .fdiv .fdiv 3 ∧ FpuInstruction .cvtif .cvtif 4 ∧ FpuInstruction .cvtfi .cvtfi 5 ∧
  FpuInstruction .imul .imul 6 ∧ FpuInstruction .idiv .idiv 7 ∧ FpuInstruction .mod .mod 8

/-- With an FPU, `movif` copies a general register into a floating point register and `movfi` one back, the destination
of `movfi` entering the load slot (Dest = 0 is a cycle with an undefined function, as rule R264 says); without an FPU
both are plain cycles to COP# 0 (rules R250, R263, R264). -/
def Obligations.FpuMoves : Prop :=
  ∀ (s : State) (r : Reg) (f : FReg),
    (s.params.hasFpu = true →
      (Completes (exec (.movif r f) s) fun t =>
        WritesFpr f (s.src2 r) s t ∧ SameGprs s t ∧ SameProcessor s t ∧ SameCops s t ∧ SameMemory s t ∧
          GoesOn s t ∧ LeavesShadow none (some (.fpr f)) false s t) ∧
      (r ≠ 0 → Completes (exec (.movfi f r) s) fun t =>
        WritesGpr r (s.readFpr .fsrc1 f) s t ∧ KeepsSpecial s t ∧ SameMemory s t ∧ GoesOn s t ∧
          LeavesShadow (some (.gpr r)) (some (.gpr r)) false s t) ∧
      Completes (exec (.movfi f 0) s) fun t =>
        SameGprs s t ∧ SameProcessor s t ∧ SameCops s t ∧ SameMemory s t ∧ GoesOn s t ∧
          LeavesShadow none none false s t) ∧
    (s.params.hasFpu = false →
      (Completes (exec (.movif r f) s) fun t => SameGprs s t ∧
        SendsCycle { kind := .toCop, addr := sext17 (fpuCopI 9#6 0 f), data := s.src2 r, user := s.psw.cur.U } s t ∧
        SameMemory s t ∧ GoesOn s t ∧ LeavesShadow none none false s t) ∧
      (r ≠ 0 → Completes (exec (.movfi f r) s) fun t =>
        WritesGpr r (Config.copAnswer t.copLog) s t ∧
        SendsCycle { kind := .fromCop, addr := sext17 (fpuCopI 10#6 f 0), data := 0, user := s.psw.cur.U } s t ∧
        SameMemory s t ∧ GoesOn s t ∧ LeavesShadow (some (.gpr r)) (some (.gpr r)) false s t))

/-- A coprocessor instruction whose address word names the FPU goes to it as any other spelling of the same cycle does:
a general `movtoc` with the word of `movif` writes the floating point register, a `movfrc` with that of `movfi` reads
one, an `aluc` (or a `movfrc` with Dest = 0) with the word of an operation performs it, whatever Src1 added; an
undefined function, or a register field not 0 where `movif` and `movfi` have 0, leaves every floating point register a
draw and, as every cycle, no general register but Dest, no PSW, MD or memory (rules R114, R166, R250, R266; the draws are
the model's choice, notes/assumptions/10.md). A `movfrc` whose Dest is the base register gets a draw (rule R352, decision
D27, notes/assumptions/5.md). -/
def Obligations.FpuReadsAddressAsDriven : Prop :=
  ∀ (s : State) (c : BitVec 17) (a b : Reg), s.params.hasFpu = true →
    (s.effectiveAddress c a).toNat / 2 ^ 14 % 8 = 0 →
    (Completes (exec (.aluc c a) s) fun t =>
      (match fpOpOfFunc (field (s.effectiveAddress c a) 8 6) with
        | some op => WritesFpr (fieldFReg (s.effectiveAddress c a) 0)
            (fpResult op (s.readFpr .fsrc1 (fieldFReg (s.effectiveAddress c a) 4))
              (s.readFpr .fsrc2 (fieldFReg (s.effectiveAddress c a) 0))) s t ∧
            LeavesShadow none (some (.fpr (fieldFReg (s.effectiveAddress c a) 0))) false s t
        | none => (∀ f, t.fpr f = Config.draw s.tick (.fpu f)) ∧ LeavesShadow none none false s t) ∧
      SameGprs s t ∧ SameProcessor s t ∧ SameCops s t ∧ SameMemory s t ∧ GoesOn s t) ∧
    (Completes (exec (.movtoc c a b) s) fun t =>
      (if field (s.effectiveAddress c a) 8 6 = 9#6 ∧ field (s.effectiveAddress c a) 4 4 = 0#4 then
          WritesFpr (fieldFReg (s.effectiveAddress c a) 0) (s.src2 b) s t ∧
            LeavesShadow none (some (.fpr (fieldFReg (s.effectiveAddress c a) 0))) false s t
        else (∀ f, t.fpr f = Config.draw s.tick (.fpu f)) ∧ LeavesShadow none none false s t) ∧
      SameGprs s t ∧ SameProcessor s t ∧ SameCops s t ∧ SameMemory s t ∧ GoesOn s t) ∧
    (b ≠ 0 → Completes (exec (.movfrc c a b) s) fun t =>
      (if field (s.effectiveAddress c a) 8 6 = 10#6 ∧ field (s.effectiveAddress c a) 0 4 = 0#4 then
          SameFprs s t ∧ t.gpr b = if b = a then Config.draw s.tick .dest
            else s.readFpr .fsrc1 (fieldFReg (s.effectiveAddress c a) 4)
        else ∀ f, t.fpr f = Config.draw s.tick (.fpu f)) ∧
      SameGprsBut b s t ∧ SameProcessor s t ∧ SameCops s t ∧ SameMemory s t ∧ GoesOn s t ∧
        LeavesShadow (some (.gpr b)) (some (.gpr b)) false s t) ∧
    exec (.movfrc c a 0) s = exec (.aluc c a) s

/-- The sum, the difference and the conversion to floating point that the spec prints come out (rules R254, R255, R258).
The conversion back, for which rule R259 prints no result, gives 3 of 3.0: the model takes the exact result that rule
R266 grants (notes/assumptions/12.md). -/
def Obligations.FpPrintedExamples : Prop :=
  fpResult .fadd 0x3F800000#32 0x40000000#32 = 0x40400000#32 ∧
  fpResult .fsub 0x40400000#32 0x3F800000#32 = 0x40000000#32 ∧
  (∀ b, fpResult .cvtif 3#32 b = 0x40400000#32) ∧ ∀ b, fpResult .cvtfi 0x40400000#32 b = 3#32

/-- Where both operands and the exact sum, difference, product or quotient are normal numbers, that is what `fadd`,
`fsub`, `fmul` and `fdiv` give (rules R253 to R257; the exact results that rule R266 grants, a decision of the spec,
and the reading of "normal" that notes/assumptions/12.md names). -/
def Obligations.FpArithmeticExact : Prop :=
  ∀ (a b c : Word) (x y z : Rat), FpValue a x → FpValue b y → FpValue c z →
    (x + y = z → fpResult .fadd a b = c) ∧ (x - y = z → fpResult .fsub a b = c) ∧
    (x * y = z → fpResult .fmul a b = c) ∧ (x / y = z → fpResult .fdiv a b = c)

/-- A positive integer of at most 24 bits has an exact floating point value, and converting back gives it (the model
takes the exact results that rule R266 grants, notes/assumptions/12.md). -/
def Obligations.FpConversionRoundTrip : Prop :=
  ∀ (n b c : Word), 0 < n.toNat → n.toNat < 2 ^ 24 →
    fpResult .cvtfi (fpResult .cvtif n b) c = n ∧
      ∃ m e, fpNormal (fpResult .cvtif n b) = some (m, e) ∧ m * 2 ^ (e + 23).toNat = (n.toNat : Int) * 2 ^ 23

/-- On integers that a signed and an unsigned reading agree on, the integer operations are multiplication, exact
division and remainder, where the result is such an integer too (rules R260 to R262; the model's reading of them,
notes/assumptions/12.md). -/
def Obligations.FpIntegerOperations : Prop :=
  ∀ a b : Word, a.toNat < 2 ^ 31 → b.toNat < 2 ^ 31 →
    (a.toNat * b.toNat < 2 ^ 31 → fpResult .imul a b = a * b) ∧
    (b ≠ 0 → a % b = 0 → fpResult .idiv a b = a / b) ∧
    (b ≠ 0 → fpResult .mod a b = a % b)

/-! ## Branches -/

/-- The branches, without and with SQ: their words, the signals of the compare they test and what these mean as integers
(equal, signed greater or equal, unsigned higher or same, unsigned lower, signed less, not equal). Taken, control moves
to PCcurrent + Disp after the two slots; not taken, it goes on, the slots squashed under SQ. No branch traps, whatever
its subtraction does (rules R182 to R187). -/
def Obligations.BranchesOnIntegers : Prop :=
  BranchPair 0b001#3 .beq .beqsq (fun q => q.z) (fun x y => x = y) ∧
  BranchPair 0b111#3 .bge .bgesq (fun q => !(q.n ^^ q.v)) (fun x y => y.toInt ≤ x.toInt) ∧
  BranchPair 0b010#3 .bhs .bhssq (fun q => q.c) (fun x y => y.toNat ≤ x.toNat) ∧
  BranchPair 0b110#3 .blo .blosq (fun q => !q.c) (fun x y => x.toNat < y.toNat) ∧
  BranchPair 0b011#3 .blt .bltsq (fun q => q.n ^^ q.v) (fun x y => x.toInt < y.toInt) ∧
  BranchPair 0b101#3 .bne .bnesq (fun q => !q.z) (fun x y => x ≠ y)

/-! ## Compute instructions -/

/-- The adder: the sum modulo 2^32, the carry out of bit 31 as natural numbers have it, and overflow exactly where the
signed sum is no signed 32-bit number; a subtraction's carry means no borrow (rule R200). -/
def Obligations.AdderExact : Prop :=
  (∀ (a b : Word) (cin : Bool),
    (addC a b cin).sum = a + b + BitVec.ofNat 32 cin.toNat ∧
    ((addC a b cin).carry = true ↔ 2 ^ 32 ≤ a.toNat + b.toNat + cin.toNat) ∧
    ((addC a b cin).overflow = true ↔ ¬ FitsSigned (a.toInt + b.toInt + cin.toNat))) ∧
  ∀ a b : Word, (subC a b).sum = a - b ∧ ((subC a b).carry = true ↔ b.toNat ≤ a.toNat) ∧
    ((subC a b).overflow = true ↔ ¬ FitsSigned (a.toInt - b.toInt))

/-- `add`, `sub`, `subnc` and `addi` put the sum, the difference, the difference less one, and the sum with the signed
immediate into Dest, or take the overflow trap with nothing written (rules R201, R205, R206, R230, R312). -/
def Obligations.ArithmeticOrTrap : Prop :=
  ∀ (a b d : Reg) (n : BitVec 17),
    WritesOrTraps (.add a b d) OvfSet.add d (fun s => (s.src1 a).toInt + (s.src2 b).toInt) ∧
    WritesOrTraps (.sub a b d) OvfSet.sub d (fun s => (s.src1 a).toInt - (s.src2 b).toInt) ∧
    WritesOrTraps (.subnc a b d) OvfSet.subnc d (fun s => (s.src1 a).toInt - (s.src2 b).toInt - 1) ∧
    WritesOrTraps (.addi a n d) OvfSet.addi d (fun s => (s.src1 a).toInt + n.toInt)

/-- `mov` is `add` with Src2 = r0, decodes from its word, copies a register and cannot overflow; `nop` is
`add r0,r0,r0` and changes nothing but the queue and the chain (rules R212, R218). -/
def Obligations.MovAndNop : Prop :=
  (∀ a d : Reg,
    decode (0b01#2 ++ 0b100#3 ++ regBits a ++ 0#5 ++ regBits d ++ 0b000000011001#12) =
        .ok (if a = 0 ∧ d = 0 then .nop else .mov a d) ∧
      (∀ s : State, exec (.mov a d) s = exec (.add a 0 d) s) ∧ AlwaysWrites (.mov a d) d fun s => s.src1 a) ∧
  ∀ s : State,
    exec .nop s = exec (.add 0 0 0) s ∧ Completes (exec .nop s) fun t =>
      SameGprs s t ∧ KeepsSpecial s t ∧ SameMemory s t ∧ GoesOn s t ∧ LeavesShadow none none false s t

/-- The logic instructions: their words, for all registers, and their effects (rules R94, R207 to R211). -/
def Obligations.LogicInstructions : Prop :=
  ∀ a b d : Reg,
    (decode (0b01#2 ++ 0b100#3 ++ regBits a ++ regBits b ++ regBits d ++ 0b000000100011#12) =
        .ok (.and a b d) ∧ AlwaysWrites (.and a b d) d fun s => s.src1 a &&& s.src2 b) ∧
    (decode (0b01#2 ++ 0b100#3 ++ regBits a ++ regBits b ++ regBits d ++ 0b000000001011#12) =
        .ok (.bic a b d) ∧ AlwaysWrites (.bic a b d) d fun s => ~~~(s.src1 a) &&& s.src2 b) ∧
    (decode (0b01#2 ++ 0b100#3 ++ regBits a ++ 0#5 ++ regBits d ++ 0b000000001111#12) =
        .ok (.not a d) ∧ AlwaysWrites (.not a d) d fun s => ~~~(s.src1 a)) ∧
    (decode (0b01#2 ++ 0b100#3 ++ regBits a ++ regBits b ++ regBits d ++ 0b000000111011#12) =
        .ok (.or a b d) ∧ AlwaysWrites (.or a b d) d fun s => s.src1 a ||| s.src2 b) ∧
    decode (0b01#2 ++ 0b100#3 ++ regBits a ++ regBits b ++ regBits d ++ 0b000000011011#12) =
        .ok (.xor a b d) ∧ AlwaysWrites (.xor a b d) d fun s => s.src1 a ^^^ s.src2 b

/-- The shifter instructions, their words and effects: `asr` is division by a power of two rounded down, `sh` the low
word of the two-word number Src2, Src1 shifted right, the amount 1 to 32 in seven bits, and the byte rotates turn Src1
left by the two low bits of Src2 or their complement (rules R214 to R217). -/
def Obligations.ShifterInstructions : Prop :=
  ∀ (a b d : Reg) (n : Nat) (q : BitVec 3) (j : Fin 4),
    (decode (0b01#2 ++ 0b001#3 ++ regBits a ++ 0#5 ++ regBits d ++ (0b00010#5 ++ (q ++ (1#4 <<< j.val)))) =
        .ok (.asr a d (32 - (4 * q.toNat + j.val))) ∧
      ∃ v : State → Word, AlwaysWrites (.asr a d n) d v ∧ ∀ s, (v s).toInt = (s.src1 a).toInt / 2 ^ n) ∧
    (decode (0b01#2 ++ 0b001#3 ++ regBits a ++ regBits b ++ regBits d ++ (0b00100#5 ++ (q ++ (1#4 <<< j.val)))) =
        .ok (.sh a b d (32 - (4 * q.toNat + j.val))) ∧
      ∃ v : State → Word, AlwaysWrites (.sh a b d n) d v ∧
        ∀ s, (v s).toNat = ((s.src2 b).toNat * 2 ^ 32 + (s.src1 a).toNat) / 2 ^ n % 2 ^ 32) ∧
    (decode (0b01#2 ++ 0b001#3 ++ regBits a ++ regBits b ++ regBits d ++ 0b000011000000#12) = .ok (.rotlb a b d) ∧
      AlwaysWrites (.rotlb a b d) d fun s => (s.src1 a).rotateLeft (8 * ((s.src2 b).toNat % 4))) ∧
    decode (0b01#2 ++ 0b001#3 ++ regBits a ++ regBits b ++ regBits d ++ 0b000010000000#12) = .ok (.rotlcb a b d) ∧
      AlwaysWrites (.rotlcb a b d) d fun s => (s.src1 a).rotateLeft (8 * (3 - (s.src2 b).toNat % 4))

/-- Where MD is settled, `mstart`, `mstep` and `dstep` make their step of a multiplication or a restoring division on
Dest and MD, or take the overflow trap with neither written: exactly where PSW.V = 0, the instruction is in `OVF_SET`
and `MD_OVF` holds, the platform's predicate or by default the overflow of the addition made, of which `dstep` has none
(rules R202, R203, R204, R220, R312). -/
def Obligations.MultiplyDivideSteps : Prop :=
  ∀ (s : State) (a b d : Reg), s.mdMoved = false → s.window ≠ .first →
    StepsMdOrTraps (.mstart b d) d (if s.md.msb then 0 - s.src2 b else 0) (s.md <<< 1)
      (s.MdTraps .mstart 0 (s.src2 b) s.md (s.md.msb = true ∧ s.src2 b = 0x80000000#32)) s ∧
    StepsMdOrTraps (.mstep a b d) d (if s.md.msb then s.src1 a <<< 1 + s.src2 b else s.src1 a <<< 1) (s.md <<< 1)
      (s.MdTraps .mstep (s.src1 a) (s.src2 b) s.md
        (s.md.msb = true ∧ ¬ FitsSigned ((s.src1 a <<< 1).toInt + (s.src2 b).toInt))) s ∧
    ∀ r : Word, r = s.src1 a <<< 1 + (if s.md.msb then 1 else 0) →
      StepsMdOrTraps (.dstep a b d) d (if (r - s.src2 b).msb then r else r - s.src2 b)
        (if (r - s.src2 b).msb then s.md <<< 1 else s.md <<< 1 + 1)
        (s.MdTraps .dstep (s.src1 a) (s.src2 b) s.md False) s

/-- The overflow of the step instructions by the spec's default `MD_OVF`, with PSW.V = 0 and MD settled: `mstart` traps
exactly on MD[31] = 1 with Src2 = 0x80000000, `mstep` exactly where MD[31] = 1 and the addition overflows, `dstep` never;
a trap writes neither Dest nor MD (rules R203, R204, R220, R312). -/
def Obligations.MultiplyDivideOverflow : Prop :=
  ∀ (s : State) (a b d : Reg), s.mdMoved = false → s.window ≠ .first → s.psw.cur.V = false →
    s.params.mdOvf = .adder → s.params.ovfSet = {} →
    (s.md.msb = true → s.src2 b = 0x80000000#32 → Completes (exec (.mstart b d) s) (AtHandler .overflow s)) ∧
    (s.md.msb = false ∨ s.src2 b ≠ 0x80000000#32 →
      StepsMd (.mstart b d) d (if s.md.msb then 0 - s.src2 b else 0) (s.md <<< 1) s) ∧
    (s.md.msb = true → ¬ FitsSigned ((s.src1 a <<< 1).toInt + (s.src2 b).toInt) →
      Completes (exec (.mstep a b d) s) (AtHandler .overflow s)) ∧
    (s.md.msb = false ∨ FitsSigned ((s.src1 a <<< 1).toInt + (s.src2 b).toInt) →
      StepsMd (.mstep a b d) d (if s.md.msb then s.src1 a <<< 1 + s.src2 b else s.src1 a <<< 1) (s.md <<< 1) s) ∧
    ∀ r : Word, r = s.src1 a <<< 1 + (if s.md.msb then 1 else 0) →
      StepsMd (.dstep a b d) d (if (r - s.src2 b).msb then r else r - s.src2 b)
        (if (r - s.src2 b).msb then s.md <<< 1 else s.md <<< 1 + 1) s

/-- Directly after `movtos md`, and as the first instruction of an interrupt or overflow handler, a step instruction
leaves draws in Dest and MD, or takes the overflow trap with neither written, which is decided as on a settled MD but
from a draw of MD; `movfrs md` reads a draw as the handler's first instruction, and directly after `movtos md` the new
value (rules R220, R312, R355, R357; the draws are notes/assumptions/5.md). -/
def Obligations.UnsettledMdGivesDraws : Prop :=
  ∀ (s : State) (a b d : Reg),
    (∀ m : Word, s.mdMoved = true ∨ s.window = .first → m = Config.draw s.tick .mdIn →
      StepsMdOrTraps (.mstart b d) d (Config.draw s.tick .dest) (Config.draw s.tick .md)
        (s.MdTraps .mstart 0 (s.src2 b) m (m.msb = true ∧ s.src2 b = 0x80000000#32)) s ∧
      StepsMdOrTraps (.mstep a b d) d (Config.draw s.tick .dest) (Config.draw s.tick .md)
        (s.MdTraps .mstep (s.src1 a) (s.src2 b) m
          (m.msb = true ∧ ¬ FitsSigned ((s.src1 a <<< 1).toInt + (s.src2 b).toInt))) s ∧
      StepsMdOrTraps (.dstep a b d) d (Config.draw s.tick .dest) (Config.draw s.tick .md)
        (s.MdTraps .dstep (s.src1 a) (s.src2 b) m False) s) ∧
    (s.window = .first → Completes (exec (.movfrs .md d) s) (OnlyWritesGpr d (Config.draw s.tick .mdIn) s)) ∧
    ∀ t, exec (.movtos a .md) s = .next t →
      t.mdMoved = true ∧ (t.window ≠ .first → ∃ u, exec (.movfrs .md d) t = .next u ∧
        u.gpr d = if d = 0 then 0 else s.src1 a)

/-- The multiplication routine: with the multiplier in MD, `mstart` and 31 `mstep` leave the low word of the product in
Dest, 0 in MD, and every other register as it was, where PSW.V = 1 and no hazard shadow is open (rule R271). -/
def Obligations.MultiplicationRoutine : Prop :=
  ∀ (s : State) (b d : Reg), b ≠ d → d ≠ 0 → s.NoLoadShadow → s.window = .closed → s.mdMoved = false →
    s.psw.cur.V = true →
    Completes (execAll (.mstart b d :: List.replicate 31 (.mstep d b d)) s) fun t =>
      t.gpr d = s.gpr b * s.md ∧ t.md = 0 ∧ SameGprsBut d s t ∧ SamePsw s t ∧ SameMemory s t

/-- The division routine: with a dividend below 2^31 in MD, 0 in the remainder register and a divisor below 2^31 and not
0, 32 `dstep` leave the quotient in MD and the remainder in the register; with divisor 0 the quotient comes out as
0xFFFFFFFF and the remainder as the dividend; all where PSW.V = 1 and no hazard shadow is open (rule R273). -/
def Obligations.DivisionRoutine : Prop :=
  ∀ (s : State) (r b : Reg), r ≠ b → r ≠ 0 → s.NoLoadShadow → s.window = .closed → s.mdMoved = false →
    s.psw.cur.V = true → s.gpr r = 0 → s.md.toNat < 2 ^ 31 → (s.gpr b).toNat < 2 ^ 31 →
    Completes (execAll (List.replicate 32 (.dstep r b r)) s) fun t =>
      (s.gpr b ≠ 0 → t.md = s.md / s.gpr b ∧ t.gpr r = s.md % s.gpr b) ∧
      (s.gpr b = 0 → t.md = 0xFFFFFFFF#32 ∧ t.gpr r = s.md) ∧ SameGprsBut r s t ∧ SamePsw s t ∧ SameMemory s t

/-! ## Jumps and special registers -/

/-- `jspci` and its word: it links PCcurrent + 1 in Dest and jumps to Src1 plus the signed immediate, Src1 read before
Dest is written, with no overflow trap (rule R233). -/
def Obligations.JspciLinksAndJumps : Prop :=
  ∀ (s : State) (a d : Reg) (n : BitVec 17),
    decode (0b11#2 ++ 0b000#3 ++ regBits a ++ regBits d ++ n) = .ok (.jspci a n d) ∧
    Completes (exec (.jspci a n d) s) fun t =>
      WritesGpr d (s.pc2.addr + 1) s t ∧ Moves (s.src1 a + sext17 n) false s t ∧ KeepsSpecial s t ∧
        SameMemory s t ∧ LeavesShadow none (some (.gpr d)) false s t

/-- `jpc` jumps to PC-4 and shifts the chain, whatever PSW.S and PSW.U are, and changes nothing else; where the chain is
refilled by ordinary execution the target is a draw (rules R139, R231). -/
def Obligations.JpcJumpsThroughChain : Prop :=
  ∀ s : State, Completes (exec .jpc s) fun t =>
    (s.k < 3 → JumpsThroughChain s.chain.c4 s t) ∧ (3 ≤ s.k → JumpsThroughChain (Config.draw s.tick .next) s t) ∧
      SameGprs s t ∧ KeepsSpecial s t ∧ SameMemory s t ∧ LeavesShadow none none false s t

/-- `jpcrs` in user state is a jump and leaves the PSW; in system state PSWcurrent comes from PSWother, which stays with
`e`, and the two slots behind it keep their fetch state while the next fetch has the new one; with PSWother.s = 0 it has
no step there (rules R133, R139, R232). -/
def Obligations.JpcrsRestoresState : Prop :=
  ∀ s : State,
    (s.psw.cur.U = true ∨ s.psw.oth.S = true → Completes (exec .jpcrs s) fun t =>
      t.psw = (if s.psw.cur.U then s.psw else { s.psw with cur := s.psw.oth }) ∧
        (s.k < 3 → JumpsThroughChain s.chain.c4 s t) ∧
        (3 ≤ s.k → JumpsThroughChain (Config.draw s.tick .next) s t) ∧
        SameGprs s t ∧ SameMd s t ∧ SameFprs s t ∧ SameCops s t ∧ SameParams s t ∧ SameMemory s t ∧
        LeavesShadow none none false s t) ∧
    (s.psw.cur.U = false → s.psw.oth.S = false → Stops (exec .jpcrs s) .returnToFrozenChain)

/-- The return sequence: from a frozen chain with PC-4, PC-3, PC-2 = A, B, C, `jpcrs` and two `jpc` in system state leave
A, B, C as the three instructions to execute, fetched under the restored PSW, and the chain refilled (rules R146,
R323). -/
def Obligations.ReturnSequence : Prop :=
  ∀ s : State, s.psw.cur.U = false → s.psw.cur.S = false → s.psw.oth.S = true → s.k = 0 →
    Completes (execAll [.jpcrs, .jpc, .jpc] s) fun t =>
      t.pc = { addr := s.chain.c4, user := s.psw.oth.U, squashed := false } ∧
      t.pc1 = { addr := s.chain.c3, user := s.psw.oth.U, squashed := false } ∧
      t.pc2 = { addr := s.chain.c2, user := s.psw.oth.U, squashed := false } ∧
      t.psw = { s.psw with cur := s.psw.oth } ∧
      t.chain = { c1 := s.chain.c2, c2 := s.chain.c3, c3 := s.chain.c4, c4 := s.chain.c1 } ∧ t.k = 3 ∧
      SameGprs s t ∧ SameMd s t ∧ SameFprs s t ∧ SameMemory s t ∧ SameCops s t

/-- An interrupt and the immediate return from it: taken where the chain is refilled and every queue entry is
unsquashed, an interrupt followed by the three jumps gives back the queue's addresses, the PSW bits and all registers,
with the entries fetched under the interrupted state (rules R314, R316, R322, R323). -/
def Obligations.InterruptThenReturn : Prop :=
  ∀ s : State, 3 ≤ s.k → s.psw.cur.S = true → s.pc.squashed = false → s.pc1.squashed = false →
    s.pc2.squashed = false → s.interruptTaken = true →
    Completes (step s) fun u => Completes (execAll [.jpcrs, .jpc, .jpc] u) fun t =>
      t.pc.addr = s.pc.addr ∧ t.pc1.addr = s.pc1.addr ∧ t.pc2.addr = s.pc2.addr ∧ t.psw.cur = s.psw.cur ∧
        t.pc.user = s.psw.cur.U ∧ t.pc1.user = s.psw.cur.U ∧ t.pc2.user = s.psw.cur.U ∧
        t.chain.c1 = s.pc2.addr ∧ t.chain.c2 = s.pc1.addr ∧ t.chain.c3 = s.pc.addr ∧ t.k = 3 ∧
        SameGprs s t ∧ SameMd s t ∧ SameFprs s t ∧ SameMemory s t ∧ SameCops s t

/-- `trap` enters the handler at 8 times its vector from both states, whatever the PSW masks; its word holds the one's
complement of the vector (rules R99, R236, R313 to R315, R318). That the window of rule R357 counts down over the entry,
and that PC-4 may be 0 where the instruction before was a squashed slot, are the model's choices
(notes/assumptions/5.md and 14.md). -/
def Obligations.TrapEntersHandler : Prop :=
  ∀ v : BitVec 8,
    decode (0b11110000000000000000#20 ++ 0#1 ++ ~~~v ++ 0b011#3) = .ok (.trap v) ∧
    ∀ s : State, Completes (exec (.trap v) s) fun t =>
      AtHandler (.trap v) s t ∧ t.pc.addr.toNat = 8 * v.toNat ∧ t.pc1.addr.toNat = 8 * v.toNat + 1 ∧
        t.pc2.addr.toNat = 8 * v.toNat + 2

/-- With the chain refilled when a `trap` executes, the frozen chain holds the two dropped addresses and the trap's own
(rule R315; the invariant is rule R138's). -/
def Obligations.TrapSavesItsPlace : Prop :=
  ∀ (s t : State) (v : BitVec 8), s.ChainInvariant → 3 ≤ s.k → exec (.trap v) s = .next t →
    t.chain.c1 = s.pc2.addr ∧ t.chain.c2 = s.pc1.addr ∧ t.chain.c3 = s.pc.addr

/-- `movfrs` reads the PSW, MD (a draw in the first instruction of an interrupt or overflow handler) or PC-4 into Dest,
in both states; the read of PC-4 shifts the chain, PC-1 unspecified, and has no step while PSW.S = 1 (rules R140, R234,
R357). -/
def Obligations.MovfrsReads : Prop :=
  ∀ (s : State) (d : Reg),
    AlwaysWrites (.movfrs .psw d) d State.pswRead ∧
    (s.window ≠ .first → Completes (exec (.movfrs .md d) s) (OnlyWritesGpr d s.md s)) ∧
    (s.window = .first → Completes (exec (.movfrs .md d) s) (OnlyWritesGpr d (Config.draw s.tick .mdIn) s)) ∧
    (s.psw.cur.S = false → Completes (exec (.movfrs .pcm4 d) s) fun t =>
      WritesGpr d s.chain.c4 s t ∧ t.chain.c2 = s.chain.c1 ∧ t.chain.c3 = s.chain.c2 ∧ t.chain.c4 = s.chain.c3 ∧
        t.chain.c1 = Config.draw s.tick .c1 ∧ t.k = 0 ∧ KeepsSpecial s t ∧ SameMemory s t ∧
        MovesQueue (s.pc2.addr + 1) false s t ∧ LeavesShadow none (some (.gpr d)) false s t) ∧
    (s.psw.cur.S = true → Stops (exec (.movfrs .pcm4 d) s) .chainShifting)

/-- `movtos` writes the PSW in system state, effective in this step, and nothing in user state; MD in both; and PC-1,
which shifts the chain, in both, with no step while PSW.S = 1 (rules R34, R133, R137, R141, R235, R355). -/
def Obligations.MovtosWrites : Prop :=
  ∀ (s : State) (a : Reg),
    (Completes (exec (.movtos a .psw) s) fun t =>
      t.psw = (if s.psw.cur.U then s.psw else pswWritten s.params.pswLayout s.psw (s.src1 a)) ∧ GoesOn s t ∧
        SameGprs s t ∧ SameMd s t ∧ SameFprs s t ∧ SameCops s t ∧ SameParams s t ∧ SameMemory s t ∧
        LeavesShadow none none false s t) ∧
    (Completes (exec (.movtos a .md) s) fun t =>
      t.md = s.src1 a ∧ GoesOn s t ∧ SameGprs s t ∧ SamePsw s t ∧ SameFprs s t ∧ SameCops s t ∧ SameParams s t ∧
        SameMemory s t ∧ LeavesShadow none none true s t) ∧
    (s.psw.cur.S = false → Completes (exec (.movtos a .pcm1) s) fun t =>
      t.chain = { c1 := Config.draw s.tick .c1, c2 := s.src1 a, c3 := s.chain.c2, c4 := s.chain.c3 } ∧ t.k = 0 ∧
        MovesQueue (s.pc2.addr + 1) false s t ∧ SameGprs s t ∧ KeepsSpecial s t ∧ SameMemory s t ∧
        LeavesShadow none none false s t) ∧
    (s.psw.cur.S = true → Stops (exec (.movtos a .pcm1) s) .chainShifting)

/-- Three reads of `pcm4` from a frozen chain give PC-4, PC-3, PC-2 in that order, whatever the registers' numbers are
but 0 and different (rule R140). -/
def Obligations.ThreeChainReads : Prop :=
  ∀ (s : State) (a b c : Reg), s.psw.cur.S = false → a ≠ 0 → b ≠ 0 → c ≠ 0 → a ≠ b → a ≠ c → b ≠ c →
    Completes (execAll [.movfrs .pcm4 a, .movfrs .pcm4 b, .movfrs .pcm4 c] s) fun t =>
      t.gpr a = s.chain.c4 ∧ t.gpr b = s.chain.c3 ∧ t.gpr c = s.chain.c2 ∧ t.chain.c4 = s.chain.c1 ∧
        (∀ r, r ≠ a → r ≠ b → r ≠ c → t.gpr r = s.gpr r) ∧ KeepsSpecial s t ∧ SameMemory s t

/-- Three writes of `pcm1` to a frozen chain in the order A, B, C leave C, B, A in PC-2, PC-3, PC-4 (rule R141). -/
def Obligations.ThreeChainWrites : Prop :=
  ∀ (s : State) (a b c : Reg), s.psw.cur.S = false → s.NoLoadShadow → s.window = .closed →
    Completes (execAll [.movtos a .pcm1, .movtos b .pcm1, .movtos c .pcm1] s) fun t =>
      t.chain.c2 = s.gpr c ∧ t.chain.c3 = s.gpr b ∧ t.chain.c4 = s.gpr a ∧ SameGprs s t ∧ KeepsSpecial s t ∧
        SameMemory s t

/-- The word `movfrs psw` reads has each PSW field at the field's position of the layout, and an unused position's bit
from a draw (rules R31, R34; the draw is the model's choice, notes/assumptions/6.md). -/
def Obligations.PswFieldsAtPositions : Prop :=
  ∀ s : State, s.ParamsLegal →
    (s.pswRead.getLsbD s.params.pswLayout.I = s.psw.cur.I ∧ s.pswRead.getLsbD s.params.pswLayout.M = s.psw.cur.M ∧
      s.pswRead.getLsbD s.params.pswLayout.U = s.psw.cur.U ∧ s.pswRead.getLsbD s.params.pswLayout.S = s.psw.cur.S ∧
      s.pswRead.getLsbD s.params.pswLayout.V = s.psw.cur.V ∧ s.pswRead.getLsbD s.params.pswLayout.O = s.psw.cur.O) ∧
    (s.pswRead.getLsbD s.params.pswLayout.i = s.psw.oth.I ∧ s.pswRead.getLsbD s.params.pswLayout.m = s.psw.oth.M ∧
      s.pswRead.getLsbD s.params.pswLayout.u = s.psw.oth.U ∧ s.pswRead.getLsbD s.params.pswLayout.s = s.psw.oth.S ∧
      s.pswRead.getLsbD s.params.pswLayout.v = s.psw.oth.V ∧ s.pswRead.getLsbD s.params.pswLayout.o = s.psw.oth.O) ∧
    s.pswRead.getLsbD s.params.pswLayout.e = s.psw.e ∧
    ∀ n : Fin 32, n ∉ s.params.pswLayout.positions →
      s.pswRead.getLsbD n = (Config.draw s.tick .psw).getLsbD n

/-- A system-state write of the PSW with a word just read from it changes nothing, and a read after a write gives the
written word at the twelve writable positions and the old `e` at its own (rules R33, R34). -/
def Obligations.PswWriteThenRead : Prop :=
  ∀ (l : PswLayout) (p : Psw) (unused w : Word), l.WellFormed →
    pswWritten l p (pswWord l p unused) = p ∧
    (pswWord l (pswWritten l p w) unused).getLsbD l.e = p.e ∧
    ∀ n : Fin 32, n ∈ l.positions → n ≠ l.e → (pswWord l (pswWritten l p w) unused).getLsbD n = w.getLsbD n

/-- `hsc` is no instruction of this hardware: its word is in the unused opcode, and no state has a step for it (rules
R111, R240). -/
def Obligations.HscStops : Prop :=
  decode 0xCFC00000#32 = .ok .hsc ∧ ∀ s : State, Stops (exec .hsc s) (.reserved .opUnused)

/-! ## The whole machine -/

/-- No step changes the parameters, and every step moves the model's clock on by one (rule R8). -/
def Obligations.ParametersNeverChange : Prop :=
  ∀ s t : State, step s = .next t → t.params = s.params ∧ t.tick = s.tick + 1 ∧ t.irq = s.irq.tail

/-- In every state a step changes the PSW only by an exception entry, a `movtos psw` or a `jpcrs`, the last two in system
state, so that user code cannot but by an exception; and nothing but an exception entry changes `e` (rules R33, R237,
R314, R318, R330). -/
def Obligations.PswWriters : Prop :=
  ∀ s t : State, step s = .next t →
    (∃ kind, AtHandler kind s t) ∨ t.psw.e = s.psw.e ∧
      (SamePsw s t ∨ s.psw.cur.U = false ∧
        ((∃ a, decode s.fetch = .ok (.movtos a .psw)) ∨ decode s.fetch = .ok .jpcrs))

/-- Every step keeps the invariant: memory in canonical form, legal parameters, the storage behind r0 at 0, the chain
invariant of rule R138, no repeats among the words recorded as stale (rules R21, R31, R138). -/
def Obligations.StepKeepsInvariant : Prop := ∀ s t : State, s.Inv → step s = .next t → t.Inv

/-- The invariant holds after reset. -/
def Obligations.ResetMeetsInvariant : Prop := State.reset.Inv

/-- With at least four chain shifts behind it, a step leaves in PC-4 the address of the instruction it executed (rule
R138). -/
def Obligations.ChainEndIsLastExecuted : Prop :=
  ∀ s t : State, s.ChainInvariant → step s = .next t → 4 ≤ t.k → t.chain.c4 = s.pc.addr

/-- After reset: system state, interrupts and overflow traps masked, the chain shifting, the queue at 0, 1, 2 in system
space and the ghost counter 0 (rules R42, R340, decision D10), and no hazard shadow and no entry window open, of which
the spec says nothing (the model's choice, notes/assumptions/2.md). -/
def Obligations.ResetValues : Prop :=
  State.reset.psw.cur.U = false ∧ State.reset.psw.cur.M = true ∧ State.reset.psw.cur.V = true ∧
    State.reset.psw.cur.S = true ∧ State.reset.pc = QEntry.system 0 ∧ State.reset.pc1 = QEntry.system 1 ∧
    State.reset.pc2 = QEntry.system 2 ∧ State.reset.k = 0 ∧ State.reset.loadShadow = [] ∧
    State.reset.window = .closed ∧ State.reset.mdMoved = false ∧ State.reset.gpr 0 = 0

/-! ## The shift mnemonics -/

/-- The mnemonics that the assembler builds from `sh`: `lsr` shifts right with zeros entering, `lsl` left, and `sh` of a
register with itself rotates right (rules R219, R284; that `lsl` by 0, for which rule R284 states no word, has one and
copies, is the model's choice, notes/assumptions/21.md; in a hazard shadow the two reads of one register may differ, rule R351,
so the rotation is said where they agree, which `OperandsRead` says of every read outside the shadows). -/
def Obligations.ShiftMnemonics : Prop :=
  ∀ (a d : Reg) (n : Nat), n ≤ 32 →
    (1 ≤ n → (lsrAsSh a d n).wf = true ∧ (rotateAsSh a d n).wf = true) ∧ (n < 32 → (lslAsSh a d n).wf = true) ∧
    (AlwaysWrites (lsrAsSh a d n) d fun s => s.src1 a >>> n) ∧
    (AlwaysWrites (lslAsSh a d n) d fun s => s.src2 a <<< n) ∧
    ∀ s : State, s.src1 a = s.src2 a →
      Completes (exec (rotateAsSh a d n) s) (OnlyWritesGpr d ((s.src1 a).rotateRight n) s)
end

