-- ==== Sys2Proof/Laws/Decode.lean ====
section
/-! SUPPORT. The fields of packed words, and how register numbers, shift amounts and CopI words go into fields and come
back. -/

namespace Sys2Proof

theorem extractLsb'_whole {a : Nat} (x : BitVec a) : x.extractLsb' 0 a = x := by
  apply BitVec.eq_of_getLsbD_eq
  intro i hi
  simp [hi]

theorem extractLsb'_extractLsb' {a : Nat} (x : BitVec a) (lo len lo' len' : Nat) (h : lo' + len' ≤ len) :
    (x.extractLsb' lo len).extractLsb' lo' len' = x.extractLsb' (lo + lo') len' := by
  apply BitVec.eq_of_getLsbD_eq
  intro i hi
  simp [hi, show lo' + i < len by omega, Nat.add_assoc]

@[simp] theorem regBits_toFin (r : Reg) : (regBits r).toFin = r := rfl
@[simp] theorem regBits_fieldReg (w : Word) (lo : Nat) : regBits (fieldReg w lo) = field w lo 5 := rfl
@[simp] theorem fregBits_toFin (f : FReg) : (fregBits f).toFin = f := rfl
@[simp] theorem fregBits_fieldFReg (w : Word) (lo : Nat) : fregBits (fieldFReg w lo) = field w lo 4 := rfl

theorem regBits_eq_zero (r : Reg) : regBits r = 0#5 ↔ r = 0 :=
  ⟨fun h => by simpa using congrArg BitVec.toFin h, fun h => by rw [h]; rfl⟩

/-! ### The formats (rules R92 to R95) -/

section
variable (op : BitVec 3) (s t d : Reg) (r : BitVec 5) (imm : BitVec 17) (sq : BitVec 1) (disp : BitVec 16)
  (func : BitVec 12)

@[simp] theorem packMemory_ty : field (packMemory op s r imm) 30 2 = 0b10#2 := by
  apply BitVec.eq_of_getLsbD_eq
  intro i hi
  simp only [field, packMemory, BitVec.getLsbD_extractLsb', BitVec.getLsbD_append]
  grind
@[simp] theorem packMemory_op : field (packMemory op s r imm) 27 3 = op := by
  apply BitVec.eq_of_getLsbD_eq
  intro i hi
  simp only [field, packMemory, BitVec.getLsbD_extractLsb', BitVec.getLsbD_append]
  grind
@[simp] theorem packMemory_src1 : field (packMemory op s r imm) 22 5 = regBits s := by
  apply BitVec.eq_of_getLsbD_eq
  intro i hi
  simp only [field, packMemory, BitVec.getLsbD_extractLsb', BitVec.getLsbD_append]
  grind
@[simp] theorem packMemory_reg : field (packMemory op s r imm) 17 5 = r := by
  apply BitVec.eq_of_getLsbD_eq
  intro i hi
  simp only [field, packMemory, BitVec.getLsbD_extractLsb', BitVec.getLsbD_append]
  grind
@[simp] theorem packMemory_freg : field (packMemory op s r imm) 17 4 = r.extractLsb' 0 4 := by
  apply BitVec.eq_of_getLsbD_eq
  intro i hi
  simp only [field, packMemory, BitVec.getLsbD_extractLsb', BitVec.getLsbD_append]
  grind
@[simp] theorem packMemory_imm : field (packMemory op s r imm) 0 17 = imm := by
  apply BitVec.eq_of_getLsbD_eq
  intro i hi
  simp only [field, packMemory, BitVec.getLsbD_extractLsb', BitVec.getLsbD_append]
  grind

/-- A field inside the immediate. -/
theorem packMemory_sub (lo len : Nat) (h : lo + len ≤ 17) :
    field (packMemory op s r imm) lo len = imm.extractLsb' lo len := by
  apply BitVec.eq_of_getLsbD_eq
  intro i hi
  simp only [field, packMemory, BitVec.getLsbD_extractLsb', BitVec.getLsbD_append]
  grind

@[simp] theorem packBranch_ty : field (packBranch op s t sq disp) 30 2 = 0b00#2 := by
  apply BitVec.eq_of_getLsbD_eq
  intro i hi
  simp only [field, packBranch, BitVec.getLsbD_extractLsb', BitVec.getLsbD_append]
  grind
@[simp] theorem packBranch_cond : field (packBranch op s t sq disp) 27 3 = op := by
  apply BitVec.eq_of_getLsbD_eq
  intro i hi
  simp only [field, packBranch, BitVec.getLsbD_extractLsb', BitVec.getLsbD_append]
  grind
@[simp] theorem packBranch_src1 : field (packBranch op s t sq disp) 22 5 = regBits s := by
  apply BitVec.eq_of_getLsbD_eq
  intro i hi
  simp only [field, packBranch, BitVec.getLsbD_extractLsb', BitVec.getLsbD_append]
  grind
@[simp] theorem packBranch_src2 : field (packBranch op s t sq disp) 17 5 = regBits t := by
  apply BitVec.eq_of_getLsbD_eq
  intro i hi
  simp only [field, packBranch, BitVec.getLsbD_extractLsb', BitVec.getLsbD_append]
  grind
@[simp] theorem packBranch_sq : field (packBranch op s t sq disp) 16 1 = sq := by
  apply BitVec.eq_of_getLsbD_eq
  intro i hi
  simp only [field, packBranch, BitVec.getLsbD_extractLsb', BitVec.getLsbD_append]
  grind
@[simp] theorem packBranch_disp : field (packBranch op s t sq disp) 0 16 = disp := by
  apply BitVec.eq_of_getLsbD_eq
  intro i hi
  simp only [field, packBranch, BitVec.getLsbD_extractLsb', BitVec.getLsbD_append]
  grind

@[simp] theorem packCompute_ty : field (packCompute op s t d func) 30 2 = 0b01#2 := by
  apply BitVec.eq_of_getLsbD_eq
  intro i hi
  simp only [field, packCompute, BitVec.getLsbD_extractLsb', BitVec.getLsbD_append]
  grind
@[simp] theorem packCompute_op : field (packCompute op s t d func) 27 3 = op := by
  apply BitVec.eq_of_getLsbD_eq
  intro i hi
  simp only [field, packCompute, BitVec.getLsbD_extractLsb', BitVec.getLsbD_append]
  grind
@[simp] theorem packCompute_src1 : field (packCompute op s t d func) 22 5 = regBits s := by
  apply BitVec.eq_of_getLsbD_eq
  intro i hi
  simp only [field, packCompute, BitVec.getLsbD_extractLsb', BitVec.getLsbD_append]
  grind
@[simp] theorem packCompute_src2 : field (packCompute op s t d func) 17 5 = regBits t := by
  apply BitVec.eq_of_getLsbD_eq
  intro i hi
  simp only [field, packCompute, BitVec.getLsbD_extractLsb', BitVec.getLsbD_append]
  grind
@[simp] theorem packCompute_dest : field (packCompute op s t d func) 12 5 = regBits d := by
  apply BitVec.eq_of_getLsbD_eq
  intro i hi
  simp only [field, packCompute, BitVec.getLsbD_extractLsb', BitVec.getLsbD_append]
  grind
@[simp] theorem packCompute_func : field (packCompute op s t d func) 0 12 = func := by
  apply BitVec.eq_of_getLsbD_eq
  intro i hi
  simp only [field, packCompute, BitVec.getLsbD_extractLsb', BitVec.getLsbD_append]
  grind

/-- A field inside the Comp Func. -/
theorem packCompute_sub (lo len : Nat) (h : lo + len ≤ 12) :
    field (packCompute op s t d func) lo len = func.extractLsb' lo len := by
  apply BitVec.eq_of_getLsbD_eq
  intro i hi
  simp only [field, packCompute, BitVec.getLsbD_extractLsb', BitVec.getLsbD_append]
  grind

@[simp] theorem packImmediate_ty : field (packImmediate op s d imm) 30 2 = 0b11#2 := by
  apply BitVec.eq_of_getLsbD_eq
  intro i hi
  simp only [field, packImmediate, BitVec.getLsbD_extractLsb', BitVec.getLsbD_append]
  grind
@[simp] theorem packImmediate_op : field (packImmediate op s d imm) 27 3 = op := by
  apply BitVec.eq_of_getLsbD_eq
  intro i hi
  simp only [field, packImmediate, BitVec.getLsbD_extractLsb', BitVec.getLsbD_append]
  grind
@[simp] theorem packImmediate_src1 : field (packImmediate op s d imm) 22 5 = regBits s := by
  apply BitVec.eq_of_getLsbD_eq
  intro i hi
  simp only [field, packImmediate, BitVec.getLsbD_extractLsb', BitVec.getLsbD_append]
  grind
@[simp] theorem packImmediate_dest : field (packImmediate op s d imm) 17 5 = regBits d := by
  apply BitVec.eq_of_getLsbD_eq
  intro i hi
  simp only [field, packImmediate, BitVec.getLsbD_extractLsb', BitVec.getLsbD_append]
  grind
@[simp] theorem packImmediate_imm : field (packImmediate op s d imm) 0 17 = imm := by
  apply BitVec.eq_of_getLsbD_eq
  intro i hi
  simp only [field, packImmediate, BitVec.getLsbD_extractLsb', BitVec.getLsbD_append]
  grind

/-- A field inside the immediate. -/
theorem packImmediate_sub (lo len : Nat) (h : lo + len ≤ 17) :
    field (packImmediate op s d imm) lo len = imm.extractLsb' lo len := by
  apply BitVec.eq_of_getLsbD_eq
  intro i hi
  simp only [field, packImmediate, BitVec.getLsbD_extractLsb', BitVec.getLsbD_append]
  grind

end

/-- A word is the fields of the memory format. -/
theorem packMemory_fields (w : Word) (h : field w 30 2 = 0b10#2) :
    packMemory (field w 27 3) (fieldReg w 22) (field w 17 5) (field w 0 17) = w := by
  apply BitVec.eq_of_getLsbD_eq
  intro i hi
  have h' : ∀ j, (0b10#2).getLsbD j = (decide (j < 2) && w.getLsbD (30 + j)) := fun j => by
    rw [← h]; simp [field]
  simp only [packMemory, regBits_fieldReg, BitVec.getLsbD_append, h', field, BitVec.getLsbD_extractLsb']
  grind

/-- A word is the fields of the branch format. -/
theorem packBranch_fields (w : Word) (h : field w 30 2 = 0b00#2) :
    packBranch (field w 27 3) (fieldReg w 22) (fieldReg w 17) (field w 16 1) (field w 0 16) = w := by
  apply BitVec.eq_of_getLsbD_eq
  intro i hi
  have h' : ∀ j, (0b00#2).getLsbD j = (decide (j < 2) && w.getLsbD (30 + j)) := fun j => by
    rw [← h]; simp [field]
  simp only [packBranch, regBits_fieldReg, BitVec.getLsbD_append, h', field, BitVec.getLsbD_extractLsb']
  grind

/-- A word is the fields of the compute format. -/
theorem packCompute_fields (w : Word) (h : field w 30 2 = 0b01#2) :
    packCompute (field w 27 3) (fieldReg w 22) (fieldReg w 17) (fieldReg w 12) (field w 0 12) = w := by
  apply BitVec.eq_of_getLsbD_eq
  intro i hi
  have h' : ∀ j, (0b01#2).getLsbD j = (decide (j < 2) && w.getLsbD (30 + j)) := fun j => by
    rw [← h]; simp [field]
  simp only [packCompute, regBits_fieldReg, BitVec.getLsbD_append, h', field, BitVec.getLsbD_extractLsb']
  grind

/-- A word is the fields of the compute immediate format. -/
theorem packImmediate_fields (w : Word) (h : field w 30 2 = 0b11#2) :
    packImmediate (field w 27 3) (fieldReg w 22) (fieldReg w 17) (field w 0 17) = w := by
  apply BitVec.eq_of_getLsbD_eq
  intro i hi
  have h' : ∀ j, (0b11#2).getLsbD j = (decide (j < 2) && w.getLsbD (30 + j)) := fun j => by
    rw [← h]; simp [field]
  simp only [packImmediate, regBits_fieldReg, BitVec.getLsbD_append, h', field, BitVec.getLsbD_extractLsb']
  grind

/-! ### Shift amounts and CopI words (rules R98, R114) -/

/-- Every valid shift amount comes back from its field. -/
theorem shiftAmount_shiftField (n : Nat) (h : shiftAmountValid n = true) : shiftAmount (shiftField n) = some n := by
  simp only [shiftAmountValid, Bool.and_eq_true, decide_eq_true_eq] at h
  obtain ⟨h1, h2⟩ := h
  interval_cases n <;> rfl

/-- A field that holds a shift amount is the field of that amount. -/
theorem shiftField_of_shiftAmount (f : BitVec 7) (n : Nat) (h : shiftAmount f = some n) :
    shiftField n = f ∧ shiftAmountValid n = true := by
  have all : ∀ g : BitVec 7, ∀ m ∈ shiftAmount g, shiftField m = g ∧ shiftAmountValid m = true := by decide
  exact all f n h

section
variable (func : BitVec 6) (a b : FReg)

@[simp] theorem fpuCopI_cop : (fpuCopI func a b).extractLsb' 14 3 = 0#3 := by
  apply BitVec.eq_of_getLsbD_eq
  intro i hi
  simp only [fpuCopI, BitVec.getLsbD_extractLsb', BitVec.getLsbD_append]
  grind
@[simp] theorem fpuCopI_func : (fpuCopI func a b).extractLsb' 8 6 = func := by
  apply BitVec.eq_of_getLsbD_eq
  intro i hi
  simp only [fpuCopI, BitVec.getLsbD_extractLsb', BitVec.getLsbD_append]
  grind
@[simp] theorem fpuCopI_cs1 : (fpuCopI func a b).extractLsb' 4 4 = fregBits a := by
  apply BitVec.eq_of_getLsbD_eq
  intro i hi
  simp only [fpuCopI, BitVec.getLsbD_extractLsb', BitVec.getLsbD_append]
  grind
@[simp] theorem fpuCopI_cs2 : (fpuCopI func a b).extractLsb' 0 4 = fregBits b := by
  apply BitVec.eq_of_getLsbD_eq
  intro i hi
  simp only [fpuCopI, BitVec.getLsbD_extractLsb', BitVec.getLsbD_append]
  grind

/-- The seven bits of an FPU CopI above CS1 and CS2, and those above CS2, as `movif` and `movfi` fix them. -/
theorem fpuCopI_top : (fpuCopI func a b).extractLsb' 8 9 = 0#3 ++ func := by
  apply BitVec.eq_of_getLsbD_eq
  intro i hi
  simp only [fpuCopI, BitVec.getLsbD_extractLsb', BitVec.getLsbD_append]
  grind

theorem fpuCopI_top_cs1 : (fpuCopI func a b).extractLsb' 4 13 = 0#3 ++ func ++ fregBits a := by
  apply BitVec.eq_of_getLsbD_eq
  intro i hi
  simp only [fpuCopI, BitVec.getLsbD_extractLsb', BitVec.getLsbD_append]
  grind

end

@[simp] theorem fregField_low (f : FReg) : ((0#1 ++ fregBits f : BitVec 5)).extractLsb' 0 4 = fregBits f := by
  apply BitVec.eq_of_getLsbD_eq
  intro i hi
  simp only [BitVec.getLsbD_extractLsb', BitVec.getLsbD_append]
  grind

/-- The Comp Func of `asr` and `sh`: which of the two, and the shift field. -/
theorem shiftFunc_kind (k : BitVec 5) (f : BitVec 7) : (k ++ f : BitVec 12).extractLsb' 7 5 = k := by
  apply BitVec.eq_of_getLsbD_eq
  intro i hi
  simp only [BitVec.getLsbD_extractLsb', BitVec.getLsbD_append]
  grind

theorem shiftFunc_field (k : BitVec 5) (f : BitVec 7) : (k ++ f : BitVec 12).extractLsb' 0 7 = f := by
  apply BitVec.eq_of_getLsbD_eq
  intro i hi
  simp only [BitVec.getLsbD_extractLsb', BitVec.getLsbD_append]
  grind

/-- A CopI with COP# 0 is the FPU's CopI of its fields. -/
theorem fpuCopI_fields (c : BitVec 17) (h : c.extractLsb' 14 3 = 0#3) :
    (0b000#3 ++ c.extractLsb' 8 6 ++ c.extractLsb' 4 4 ++ c.extractLsb' 0 4 : BitVec 17) = c := by
  apply BitVec.eq_of_getLsbD_eq
  intro i hi
  have h' : ∀ j, (0#3).getLsbD j = (decide (j < 3) && c.getLsbD (14 + j)) := fun j => by
    rw [← h]; simp
  simp only [BitVec.getLsbD_append, h', BitVec.getLsbD_extractLsb']
  grind

end Sys2Proof
end

