-- ==== Sys2Proof/Laws/Memory.lean ====
section
/-! SUPPORT. The laws of memory: a read after a write, and that every write keeps the canonical form. -/

namespace Sys2Proof.Machine

/-! ### One byte -/

theorem Memory.read_filter_ne (m : Memory) (a c : Nat) (h : c ≠ a) :
    Memory.read (m.filter fun e => e.1 != a) c = Memory.read m c := by
  induction m with
  | nil => rfl
  | cons e rest ih =>
    obtain ⟨k, v⟩ := e
    by_cases hk : k = a
    · subst hk
      simpa [Memory.read, Ne.symm h] using ih
    · have hf : ((k, v) :: rest).filter (fun e => e.1 != a) = (k, v) :: rest.filter fun e => e.1 != a := by
        simp [hk]
      simp only [hf, Memory.read, ih]

theorem Memory.read_filter_self (m : Memory) (a : Nat) :
    Memory.read (m.filter fun e => e.1 != a) a = unlistedByte := by
  induction m with
  | nil => rfl
  | cons e rest ih =>
    obtain ⟨k, v⟩ := e
    by_cases hk : k = a
    · simpa [hk] using ih
    · simpa [hk, Memory.read] using ih

theorem Memory.read_insert_ne (m : Memory) (a c : Nat) (b : Byte) (h : c ≠ a) :
    Memory.read (Memory.insert m a b) c = Memory.read m c := by
  induction m with
  | nil => simp [Memory.insert, Memory.read, Ne.symm h]
  | cons e rest ih =>
    obtain ⟨k, v⟩ := e
    by_cases hk : a < k
    · simp [Memory.insert, hk, Memory.read, Ne.symm h]
    · simp [Memory.insert, hk, Memory.read, ih]

theorem Memory.read_insert_self (m : Memory) (a : Nat) (b : Byte) (h : ∀ e ∈ m, e.1 ≠ a) :
    Memory.read (Memory.insert m a b) a = b := by
  induction m with
  | nil => simp [Memory.insert, Memory.read]
  | cons e rest ih =>
    obtain ⟨k, v⟩ := e
    have hk : k ≠ a := h (k, v) (by simp)
    by_cases hlt : a < k
    · simp [Memory.insert, hlt, Memory.read]
    · simpa [Memory.insert, hlt, Memory.read, hk] using ih fun e he => h e (by simp [he])

theorem Memory.read_write_ne (m : Memory) (a c : Nat) (b : Byte) (h : c ≠ a) :
    Memory.read (Memory.write m a b) c = Memory.read m c := by
  simp only [Memory.write]
  split
  · exact Memory.read_filter_ne m a c h
  · rw [Memory.read_insert_ne _ _ _ _ h, Memory.read_filter_ne m a c h]

theorem Memory.read_write_self (m : Memory) (a : Nat) (b : Byte) :
    Memory.read (Memory.write m a b) a = b := by
  simp only [Memory.write]
  split
  · next h => rw [h]; exact Memory.read_filter_self m a
  · exact Memory.read_insert_self _ _ _ fun e he => by simpa using (List.mem_filter.1 he).2

/-- What a byte write does to every read. -/
theorem Memory.read_write (m : Memory) (a c : Nat) (b : Byte) :
    Memory.read (Memory.write m a b) c = if c = a then b else Memory.read m c := by
  split
  · next h => rw [h, Memory.read_write_self]
  · next h => exact Memory.read_write_ne m a c b h

/-! ### The canonical form -/

theorem Memory.wfFrom_mono (m : Memory) {lo hi : Nat} (hle : lo ≤ hi) (h : Memory.wfFrom hi m = true) :
    Memory.wfFrom lo m = true := by
  cases m with
  | nil => rfl
  | cons e rest =>
    obtain ⟨k, v⟩ := e
    simp only [Memory.wfFrom, Bool.and_eq_true, decide_eq_true_eq] at h ⊢
    exact ⟨⟨⟨by omega, h.1.1.2⟩, h.1.2⟩, h.2⟩

theorem Memory.wfFrom_filter (m : Memory) (lo a : Nat) (h : Memory.wfFrom lo m = true) :
    Memory.wfFrom lo (m.filter fun e => e.1 != a) = true := by
  induction m generalizing lo with
  | nil => rfl
  | cons e rest ih =>
    obtain ⟨k, v⟩ := e
    simp only [Memory.wfFrom, Bool.and_eq_true, decide_eq_true_eq] at h
    have ih' := ih (k + 1) h.2
    by_cases hk : k = a
    · simpa [hk] using Memory.wfFrom_mono _ (by omega : lo ≤ k + 1) ih'
    · have hf : ((k, v) :: rest).filter (fun e => e.1 != a) = (k, v) :: rest.filter fun e => e.1 != a := by
        simp [hk]
      rw [hf]
      simp only [Memory.wfFrom, Bool.and_eq_true, decide_eq_true_eq]
      exact ⟨h.1, ih'⟩

theorem Memory.wfFrom_insert (m : Memory) (lo a : Nat) (b : Byte) (hm : Memory.wfFrom lo m = true)
    (hlo : lo ≤ a) (ha : a < 2 ^ 32) (hb : b ≠ unlistedByte) (hne : ∀ e ∈ m, e.1 ≠ a) :
    Memory.wfFrom lo (Memory.insert m a b) = true := by
  induction m generalizing lo with
  | nil => simpa [Memory.insert, Memory.wfFrom, hb] using ⟨hlo, ha⟩
  | cons e rest ih =>
    obtain ⟨k, v⟩ := e
    have hk : k ≠ a := hne (k, v) (by simp)
    simp only [Memory.wfFrom, Bool.and_eq_true, decide_eq_true_eq] at hm
    by_cases hlt : a < k
    · simp only [Memory.insert, hlt, if_true, Memory.wfFrom, Bool.and_eq_true, decide_eq_true_eq, bne_iff_ne]
      simp only [bne_iff_ne] at hm
      exact ⟨⟨⟨hlo, ha⟩, hb⟩, ⟨⟨hlt, hm.1.1.2⟩, hm.1.2⟩, hm.2⟩
    · simp only [Memory.insert, hlt, if_false, Memory.wfFrom, Bool.and_eq_true, decide_eq_true_eq]
      exact ⟨hm.1, ih (k + 1) hm.2 (by omega) fun e he => hne e (by simp [he])⟩

/-- A byte write inside the address space keeps the canonical form. -/
theorem Memory.wf_write (m : Memory) (a : Nat) (b : Byte) (h : Memory.wf m = true) (ha : a < 2 ^ 32) :
    Memory.wf (Memory.write m a b) = true := by
  simp only [Memory.write, Memory.wf] at h ⊢
  have hf := Memory.wfFrom_filter m 0 a h
  split
  · exact hf
  · next hb =>
    exact Memory.wfFrom_insert _ _ _ _ hf (Nat.zero_le a) ha hb
      fun e he => by simpa using (List.mem_filter.1 he).2

/-! ### Words -/

theorem wordAddress_lt (w : WordNumber) : wordAddress w + 3 < 2 ^ 32 := by
  have := w.isLt
  simp only [wordAddress]
  omega

theorem wordAddress_inj {v w : WordNumber} (h : wordAddress v = wordAddress w) : v = w :=
  BitVec.eq_of_toNat_eq (by simp only [wordAddress] at h; omega)

/-- A word write keeps the canonical form. -/
theorem Memory.wf_writeWord (m : Memory) (w : WordNumber) (v : Word) (h : Memory.wf m = true) :
    Memory.wf (Memory.writeWord m w v) = true := by
  have := wordAddress_lt w
  simp only [Memory.writeWord]
  iterate 4 refine Memory.wf_write _ _ _ ?_ (by omega)
  exact h

/-- What a word write does to every byte read. -/
theorem Memory.read_writeWord (m : Memory) (w : WordNumber) (v : Word) (a : Nat) :
    Memory.read (Memory.writeWord m w v) a =
      if a = wordAddress w + 3 then field v 0 8 else if a = wordAddress w + 2 then field v 8 8
      else if a = wordAddress w + 1 then field v 16 8 else if a = wordAddress w then field v 24 8
      else Memory.read m a := by
  simp only [Memory.writeWord, Memory.read_write]

/-- A word write leaves every byte outside the word. -/
theorem Memory.read_writeWord_outside (m : Memory) (w : WordNumber) (v : Word) (a : Nat)
    (h : a < wordAddress w ∨ wordAddress w + 4 ≤ a) : Memory.read (Memory.writeWord m w v) a = Memory.read m a := by
  rw [Memory.read_writeWord, if_neg (by omega), if_neg (by omega), if_neg (by omega), if_neg (by omega)]

/-- The bytes of a word make the word. -/
theorem wordOfBytes_fields (v : Word) :
    wordOfBytes (field v 24 8) (field v 16 8) (field v 8 8) (field v 0 8) = v := by
  apply BitVec.eq_of_getLsbD_eq
  intro i hi
  simp only [wordOfBytes, field, BitVec.getLsbD_append, BitVec.getLsbD_extractLsb']
  by_cases h0 : i < 8
  · simp [h0]
  by_cases h1 : i < 16
  · simp [h0, show i - 8 < 8 by omega, show 8 + (i - 8) = i by omega]
  by_cases h2 : i < 24
  · simp [h0, show ¬ i - 8 < 8 by omega, show i - 8 - 8 < 8 by omega, show 16 + (i - 8 - 8) = i by omega]
  · simp [h0, show ¬ i - 8 < 8 by omega, show ¬ i - 8 - 8 < 8 by omega, show i - 8 - 8 - 8 < 8 by omega,
      show 24 + (i - 8 - 8 - 8) = i by omega]

/-- A word read after a word write to the same word. -/
@[simp] theorem Memory.readWord_writeWord_self (m : Memory) (w : WordNumber) (v : Word) :
    Memory.readWord (Memory.writeWord m w v) w = v := by
  simp only [Memory.readWord, Memory.read_writeWord]
  simpa using wordOfBytes_fields v

/-- A word read after a word write elsewhere. -/
theorem Memory.readWord_writeWord_ne (m : Memory) (w u : WordNumber) (v : Word) (h : u ≠ w) :
    Memory.readWord (Memory.writeWord m w v) u = Memory.readWord m u := by
  have hne : u.toNat ≠ w.toNat := fun e => h (BitVec.eq_of_toNat_eq e)
  have out : ∀ k, k < 4 → Memory.read (Memory.writeWord m w v) (wordAddress u + k) =
      Memory.read m (wordAddress u + k) := fun k hk =>
    Memory.read_writeWord_outside m w v _ (by simp only [wordAddress]; omega)
  have h0 := out 0 (by omega)
  simp only [Nat.add_zero] at h0
  simp only [Memory.readWord, h0, out 1 (by omega), out 2 (by omega), out 3 (by omega)]

/-! ### The stale words -/

/-- The words recorded as stale after a store. -/
theorem noteStale_words (l : List StaleWord) (w : WordNumber) :
    ((noteStale l w).map fun e => e.word) = w :: (l.map fun e => e.word).filter fun u => u != w := by
  simp only [noteStale, List.map_cons, List.filter_map]
  rfl

theorem noteStale_nodup (l : List StaleWord) (w : WordNumber) (h : (l.map fun e => e.word).Nodup) :
    ((noteStale l w).map fun e => e.word).Nodup := by
  rw [noteStale_words]
  exact List.nodup_cons.2 ⟨fun hw => by simp at hw, h.filter _⟩

/-- A step leaves the recorded words. -/
theorem State.ageStale_words (s : State) (l : List StaleWord) :
    ((l.map s.ageStale).map fun e => e.word) = l.map fun e => e.word := by
  rw [List.map_map]
  rfl

end Sys2Proof.Machine
end

