-- ==== Sys2Proof/Laws/State.lean ====
section
/-! SUPPORT. One lemma per field per update of the state: what each update writes and what it leaves. -/

namespace Sys2Proof.Machine

/-! ### `State.writeGpr` -/

@[simp] theorem State.writeGpr_md (s : State) (r : Reg) (v : Word) : (s.writeGpr r v).md = s.md := rfl
@[simp] theorem State.writeGpr_psw (s : State) (r : Reg) (v : Word) : (s.writeGpr r v).psw = s.psw := rfl
@[simp] theorem State.writeGpr_chain (s : State) (r : Reg) (v : Word) : (s.writeGpr r v).chain = s.chain := rfl
@[simp] theorem State.writeGpr_k (s : State) (r : Reg) (v : Word) : (s.writeGpr r v).k = s.k := rfl
@[simp] theorem State.writeGpr_pc (s : State) (r : Reg) (v : Word) : (s.writeGpr r v).pc = s.pc := rfl
@[simp] theorem State.writeGpr_pc1 (s : State) (r : Reg) (v : Word) : (s.writeGpr r v).pc1 = s.pc1 := rfl
@[simp] theorem State.writeGpr_pc2 (s : State) (r : Reg) (v : Word) : (s.writeGpr r v).pc2 = s.pc2 := rfl
@[simp] theorem State.writeGpr_mdMoved (s : State) (r : Reg) (v : Word) : (s.writeGpr r v).mdMoved = s.mdMoved := rfl
@[simp] theorem State.writeGpr_window (s : State) (r : Reg) (v : Word) : (s.writeGpr r v).window = s.window := rfl
@[simp] theorem State.writeGpr_slotSquashed (s : State) (r : Reg) (v : Word) : (s.writeGpr r v).slotSquashed = s.slotSquashed := rfl
@[simp] theorem State.writeGpr_f (s : State) (r : Reg) (v : Word) : (s.writeGpr r v).f = s.f := rfl
@[simp] theorem State.writeGpr_mem (s : State) (r : Reg) (v : Word) : (s.writeGpr r v).mem = s.mem := rfl
@[simp] theorem State.writeGpr_storeLog (s : State) (r : Reg) (v : Word) : (s.writeGpr r v).storeLog = s.storeLog := rfl
@[simp] theorem State.writeGpr_stale (s : State) (r : Reg) (v : Word) : (s.writeGpr r v).stale = s.stale := rfl
@[simp] theorem State.writeGpr_copLog (s : State) (r : Reg) (v : Word) : (s.writeGpr r v).copLog = s.copLog := rfl
@[simp] theorem State.writeGpr_irq (s : State) (r : Reg) (v : Word) : (s.writeGpr r v).irq = s.irq := rfl
@[simp] theorem State.writeGpr_tick (s : State) (r : Reg) (v : Word) : (s.writeGpr r v).tick = s.tick := rfl
@[simp] theorem State.writeGpr_params (s : State) (r : Reg) (v : Word) : (s.writeGpr r v).params = s.params := rfl

/-! ### `State.writeFpr` -/

@[simp] theorem State.writeFpr_x (s : State) (g : FReg) (v : Word) : (s.writeFpr g v).x = s.x := rfl
@[simp] theorem State.writeFpr_md (s : State) (g : FReg) (v : Word) : (s.writeFpr g v).md = s.md := rfl
@[simp] theorem State.writeFpr_psw (s : State) (g : FReg) (v : Word) : (s.writeFpr g v).psw = s.psw := rfl
@[simp] theorem State.writeFpr_chain (s : State) (g : FReg) (v : Word) : (s.writeFpr g v).chain = s.chain := rfl
@[simp] theorem State.writeFpr_k (s : State) (g : FReg) (v : Word) : (s.writeFpr g v).k = s.k := rfl
@[simp] theorem State.writeFpr_pc (s : State) (g : FReg) (v : Word) : (s.writeFpr g v).pc = s.pc := rfl
@[simp] theorem State.writeFpr_pc1 (s : State) (g : FReg) (v : Word) : (s.writeFpr g v).pc1 = s.pc1 := rfl
@[simp] theorem State.writeFpr_pc2 (s : State) (g : FReg) (v : Word) : (s.writeFpr g v).pc2 = s.pc2 := rfl
@[simp] theorem State.writeFpr_mdMoved (s : State) (g : FReg) (v : Word) : (s.writeFpr g v).mdMoved = s.mdMoved := rfl
@[simp] theorem State.writeFpr_window (s : State) (g : FReg) (v : Word) : (s.writeFpr g v).window = s.window := rfl
@[simp] theorem State.writeFpr_slotSquashed (s : State) (g : FReg) (v : Word) : (s.writeFpr g v).slotSquashed = s.slotSquashed := rfl
@[simp] theorem State.writeFpr_mem (s : State) (g : FReg) (v : Word) : (s.writeFpr g v).mem = s.mem := rfl
@[simp] theorem State.writeFpr_storeLog (s : State) (g : FReg) (v : Word) : (s.writeFpr g v).storeLog = s.storeLog := rfl
@[simp] theorem State.writeFpr_stale (s : State) (g : FReg) (v : Word) : (s.writeFpr g v).stale = s.stale := rfl
@[simp] theorem State.writeFpr_copLog (s : State) (g : FReg) (v : Word) : (s.writeFpr g v).copLog = s.copLog := rfl
@[simp] theorem State.writeFpr_irq (s : State) (g : FReg) (v : Word) : (s.writeFpr g v).irq = s.irq := rfl
@[simp] theorem State.writeFpr_tick (s : State) (g : FReg) (v : Word) : (s.writeFpr g v).tick = s.tick := rfl
@[simp] theorem State.writeFpr_params (s : State) (g : FReg) (v : Word) : (s.writeFpr g v).params = s.params := rfl

/-! ### `State.storeWord` -/

@[simp] theorem State.storeWord_x (s : State) (p : Path) (w : WordNumber) (v : Word) : (s.storeWord p w v).x = s.x := rfl
@[simp] theorem State.storeWord_md (s : State) (p : Path) (w : WordNumber) (v : Word) : (s.storeWord p w v).md = s.md := rfl
@[simp] theorem State.storeWord_psw (s : State) (p : Path) (w : WordNumber) (v : Word) : (s.storeWord p w v).psw = s.psw := rfl
@[simp] theorem State.storeWord_chain (s : State) (p : Path) (w : WordNumber) (v : Word) : (s.storeWord p w v).chain = s.chain := rfl
@[simp] theorem State.storeWord_k (s : State) (p : Path) (w : WordNumber) (v : Word) : (s.storeWord p w v).k = s.k := rfl
@[simp] theorem State.storeWord_pc (s : State) (p : Path) (w : WordNumber) (v : Word) : (s.storeWord p w v).pc = s.pc := rfl
@[simp] theorem State.storeWord_pc1 (s : State) (p : Path) (w : WordNumber) (v : Word) : (s.storeWord p w v).pc1 = s.pc1 := rfl
@[simp] theorem State.storeWord_pc2 (s : State) (p : Path) (w : WordNumber) (v : Word) : (s.storeWord p w v).pc2 = s.pc2 := rfl
@[simp] theorem State.storeWord_loadShadow (s : State) (p : Path) (w : WordNumber) (v : Word) : (s.storeWord p w v).loadShadow = s.loadShadow := rfl
@[simp] theorem State.storeWord_mdMoved (s : State) (p : Path) (w : WordNumber) (v : Word) : (s.storeWord p w v).mdMoved = s.mdMoved := rfl
@[simp] theorem State.storeWord_window (s : State) (p : Path) (w : WordNumber) (v : Word) : (s.storeWord p w v).window = s.window := rfl
@[simp] theorem State.storeWord_slotSquashed (s : State) (p : Path) (w : WordNumber) (v : Word) : (s.storeWord p w v).slotSquashed = s.slotSquashed := rfl
@[simp] theorem State.storeWord_f (s : State) (p : Path) (w : WordNumber) (v : Word) : (s.storeWord p w v).f = s.f := rfl
@[simp] theorem State.storeWord_copLog (s : State) (p : Path) (w : WordNumber) (v : Word) : (s.storeWord p w v).copLog = s.copLog := rfl
@[simp] theorem State.storeWord_irq (s : State) (p : Path) (w : WordNumber) (v : Word) : (s.storeWord p w v).irq = s.irq := rfl
@[simp] theorem State.storeWord_tick (s : State) (p : Path) (w : WordNumber) (v : Word) : (s.storeWord p w v).tick = s.tick := rfl
@[simp] theorem State.storeWord_params (s : State) (p : Path) (w : WordNumber) (v : Word) : (s.storeWord p w v).params = s.params := rfl

/-! ### `State.fpuUnspecified` -/

@[simp] theorem State.fpuUnspecified_x (s : State) : (s.fpuUnspecified).x = s.x := rfl
@[simp] theorem State.fpuUnspecified_md (s : State) : (s.fpuUnspecified).md = s.md := rfl
@[simp] theorem State.fpuUnspecified_psw (s : State) : (s.fpuUnspecified).psw = s.psw := rfl
@[simp] theorem State.fpuUnspecified_chain (s : State) : (s.fpuUnspecified).chain = s.chain := rfl
@[simp] theorem State.fpuUnspecified_k (s : State) : (s.fpuUnspecified).k = s.k := rfl
@[simp] theorem State.fpuUnspecified_pc (s : State) : (s.fpuUnspecified).pc = s.pc := rfl
@[simp] theorem State.fpuUnspecified_pc1 (s : State) : (s.fpuUnspecified).pc1 = s.pc1 := rfl
@[simp] theorem State.fpuUnspecified_pc2 (s : State) : (s.fpuUnspecified).pc2 = s.pc2 := rfl
@[simp] theorem State.fpuUnspecified_loadShadow (s : State) : (s.fpuUnspecified).loadShadow = s.loadShadow := rfl
@[simp] theorem State.fpuUnspecified_mdMoved (s : State) : (s.fpuUnspecified).mdMoved = s.mdMoved := rfl
@[simp] theorem State.fpuUnspecified_window (s : State) : (s.fpuUnspecified).window = s.window := rfl
@[simp] theorem State.fpuUnspecified_slotSquashed (s : State) : (s.fpuUnspecified).slotSquashed = s.slotSquashed := rfl
@[simp] theorem State.fpuUnspecified_mem (s : State) : (s.fpuUnspecified).mem = s.mem := rfl
@[simp] theorem State.fpuUnspecified_storeLog (s : State) : (s.fpuUnspecified).storeLog = s.storeLog := rfl
@[simp] theorem State.fpuUnspecified_stale (s : State) : (s.fpuUnspecified).stale = s.stale := rfl
@[simp] theorem State.fpuUnspecified_copLog (s : State) : (s.fpuUnspecified).copLog = s.copLog := rfl
@[simp] theorem State.fpuUnspecified_irq (s : State) : (s.fpuUnspecified).irq = s.irq := rfl
@[simp] theorem State.fpuUnspecified_tick (s : State) : (s.fpuUnspecified).tick = s.tick := rfl
@[simp] theorem State.fpuUnspecified_params (s : State) : (s.fpuUnspecified).params = s.params := rfl

/-! ### `State.fpuCompute` -/

@[simp] theorem State.fpuCompute_x (s : State) (op : FpOp) (f1 f2 : FReg) : (s.fpuCompute op f1 f2).x = s.x := rfl
@[simp] theorem State.fpuCompute_md (s : State) (op : FpOp) (f1 f2 : FReg) : (s.fpuCompute op f1 f2).md = s.md := rfl
@[simp] theorem State.fpuCompute_psw (s : State) (op : FpOp) (f1 f2 : FReg) : (s.fpuCompute op f1 f2).psw = s.psw := rfl
@[simp] theorem State.fpuCompute_chain (s : State) (op : FpOp) (f1 f2 : FReg) : (s.fpuCompute op f1 f2).chain = s.chain := rfl
@[simp] theorem State.fpuCompute_k (s : State) (op : FpOp) (f1 f2 : FReg) : (s.fpuCompute op f1 f2).k = s.k := rfl
@[simp] theorem State.fpuCompute_pc (s : State) (op : FpOp) (f1 f2 : FReg) : (s.fpuCompute op f1 f2).pc = s.pc := rfl
@[simp] theorem State.fpuCompute_pc1 (s : State) (op : FpOp) (f1 f2 : FReg) : (s.fpuCompute op f1 f2).pc1 = s.pc1 := rfl
@[simp] theorem State.fpuCompute_pc2 (s : State) (op : FpOp) (f1 f2 : FReg) : (s.fpuCompute op f1 f2).pc2 = s.pc2 := rfl
@[simp] theorem State.fpuCompute_mdMoved (s : State) (op : FpOp) (f1 f2 : FReg) : (s.fpuCompute op f1 f2).mdMoved = s.mdMoved := rfl
@[simp] theorem State.fpuCompute_window (s : State) (op : FpOp) (f1 f2 : FReg) : (s.fpuCompute op f1 f2).window = s.window := rfl
@[simp] theorem State.fpuCompute_slotSquashed (s : State) (op : FpOp) (f1 f2 : FReg) : (s.fpuCompute op f1 f2).slotSquashed = s.slotSquashed := rfl
@[simp] theorem State.fpuCompute_mem (s : State) (op : FpOp) (f1 f2 : FReg) : (s.fpuCompute op f1 f2).mem = s.mem := rfl
@[simp] theorem State.fpuCompute_storeLog (s : State) (op : FpOp) (f1 f2 : FReg) : (s.fpuCompute op f1 f2).storeLog = s.storeLog := rfl
@[simp] theorem State.fpuCompute_stale (s : State) (op : FpOp) (f1 f2 : FReg) : (s.fpuCompute op f1 f2).stale = s.stale := rfl
@[simp] theorem State.fpuCompute_copLog (s : State) (op : FpOp) (f1 f2 : FReg) : (s.fpuCompute op f1 f2).copLog = s.copLog := rfl
@[simp] theorem State.fpuCompute_irq (s : State) (op : FpOp) (f1 f2 : FReg) : (s.fpuCompute op f1 f2).irq = s.irq := rfl
@[simp] theorem State.fpuCompute_tick (s : State) (op : FpOp) (f1 f2 : FReg) : (s.fpuCompute op f1 f2).tick = s.tick := rfl
@[simp] theorem State.fpuCompute_params (s : State) (op : FpOp) (f1 f2 : FReg) : (s.fpuCompute op f1 f2).params = s.params := rfl

/-! ### `State.retire` -/

@[simp] theorem State.retire_x (s : State) (a : After) : (s.retire a).x = s.x := rfl
@[simp] theorem State.retire_md (s : State) (a : After) : (s.retire a).md = s.md := rfl
@[simp] theorem State.retire_psw (s : State) (a : After) : (s.retire a).psw = s.psw := rfl
@[simp] theorem State.retire_f (s : State) (a : After) : (s.retire a).f = s.f := rfl
@[simp] theorem State.retire_mem (s : State) (a : After) : (s.retire a).mem = s.mem := rfl
@[simp] theorem State.retire_storeLog (s : State) (a : After) : (s.retire a).storeLog = s.storeLog := rfl
@[simp] theorem State.retire_copLog (s : State) (a : After) : (s.retire a).copLog = s.copLog := rfl
@[simp] theorem State.retire_params (s : State) (a : After) : (s.retire a).params = s.params := rfl

/-! ### `State.retireNext` -/

@[simp] theorem State.retireNext_x (s : State) : (s.retireNext).x = s.x := rfl
@[simp] theorem State.retireNext_md (s : State) : (s.retireNext).md = s.md := rfl
@[simp] theorem State.retireNext_psw (s : State) : (s.retireNext).psw = s.psw := rfl
@[simp] theorem State.retireNext_f (s : State) : (s.retireNext).f = s.f := rfl
@[simp] theorem State.retireNext_mem (s : State) : (s.retireNext).mem = s.mem := rfl
@[simp] theorem State.retireNext_storeLog (s : State) : (s.retireNext).storeLog = s.storeLog := rfl
@[simp] theorem State.retireNext_copLog (s : State) : (s.retireNext).copLog = s.copLog := rfl
@[simp] theorem State.retireNext_params (s : State) : (s.retireNext).params = s.params := rfl

/-! ### `State.enterException` -/

@[simp] theorem State.enterException_x (s : State) (kind : Exception) : (s.enterException kind).x = s.x := rfl
@[simp] theorem State.enterException_md (s : State) (kind : Exception) : (s.enterException kind).md = s.md := rfl
@[simp] theorem State.enterException_f (s : State) (kind : Exception) : (s.enterException kind).f = s.f := rfl
@[simp] theorem State.enterException_mem (s : State) (kind : Exception) : (s.enterException kind).mem = s.mem := rfl
@[simp] theorem State.enterException_storeLog (s : State) (kind : Exception) : (s.enterException kind).storeLog = s.storeLog := rfl
@[simp] theorem State.enterException_stale (s : State) (kind : Exception) : (s.enterException kind).stale = s.stale := rfl
@[simp] theorem State.enterException_copLog (s : State) (kind : Exception) : (s.enterException kind).copLog = s.copLog := rfl
@[simp] theorem State.enterException_params (s : State) (kind : Exception) : (s.enterException kind).params = s.params := rfl

/-! ### What the end of a step and an exception entry write -/

@[simp] theorem QEntry.mark_false (q : QEntry) : q.mark false = q := by simp [QEntry.mark]
@[simp] theorem QEntry.mark_addr (q : QEntry) (b : Bool) : (q.mark b).addr = q.addr := rfl
@[simp] theorem QEntry.mark_user (q : QEntry) (b : Bool) : (q.mark b).user = q.user := rfl
@[simp] theorem QEntry.system_addr (a : Word) : (QEntry.system a).addr = a := rfl
@[simp] theorem QEntry.system_user (a : Word) : (QEntry.system a).user = false := rfl
@[simp] theorem QEntry.system_squashed (a : Word) : (QEntry.system a).squashed = false := rfl
@[simp] theorem State.incrementer_eq (s : State) : s.incrementer = s.pc2.addr + 1 := rfl

@[simp] theorem State.retire_chain (s : State) (a : After) :
    (s.retire a).chain = if s.psw.cur.S || a.shiftAnyway then s.chain.shift a.next else s.chain := rfl
@[simp] theorem State.retire_k (s : State) (a : After) :
    (s.retire a).k = if s.psw.cur.S then s.k + 1 else 0 := rfl
@[simp] theorem State.retire_pc (s : State) (a : After) :
    (s.retire a).pc = s.pc1.mark a.squash := rfl
@[simp] theorem State.retire_pc1 (s : State) (a : After) :
    (s.retire a).pc1 = s.pc2.mark a.squash := rfl
@[simp] theorem State.retire_pc2 (s : State) (a : After) :
    (s.retire a).pc2 = { addr := a.next, user := s.psw.cur.U, squashed := false } := rfl
@[simp] theorem State.retire_loadShadow (s : State) (a : After) :
    (s.retire a).loadShadow = (a.loaded :: s.loadShadow).take s.params.loadSlots := rfl
@[simp] theorem State.retire_mdMoved (s : State) (a : After) :
    (s.retire a).mdMoved = a.mdMoved := rfl
@[simp] theorem State.retire_window (s : State) (a : After) :
    (s.retire a).window = s.window.advance := rfl
@[simp] theorem State.retire_slotSquashed (s : State) (a : After) :
    (s.retire a).slotSquashed = a.slotSquashed := rfl
@[simp] theorem State.retire_irq (s : State) (a : After) :
    (s.retire a).irq = s.irq.tail := rfl
@[simp] theorem State.retire_tick (s : State) (a : After) :
    (s.retire a).tick = s.tick + 1 := rfl

@[simp] theorem State.retireNext_chain (s : State) :
    (s.retireNext).chain = if s.psw.cur.S then s.chain.shift (s.pc2.addr + 1) else s.chain := by simp [State.retireNext, State.retire]
@[simp] theorem State.retireNext_k (s : State) :
    (s.retireNext).k = if s.psw.cur.S then s.k + 1 else 0 := rfl
@[simp] theorem State.retireNext_pc (s : State) :
    (s.retireNext).pc = s.pc1 := by simp [State.retireNext, State.retire]
@[simp] theorem State.retireNext_pc1 (s : State) :
    (s.retireNext).pc1 = s.pc2 := by simp [State.retireNext, State.retire]
@[simp] theorem State.retireNext_pc2 (s : State) :
    (s.retireNext).pc2 = { addr := s.pc2.addr + 1, user := s.psw.cur.U, squashed := false } := rfl
@[simp] theorem State.retireNext_loadShadow (s : State) :
    (s.retireNext).loadShadow = (none :: s.loadShadow).take s.params.loadSlots := rfl
@[simp] theorem State.retireNext_mdMoved (s : State) :
    (s.retireNext).mdMoved = false := rfl
@[simp] theorem State.retireNext_window (s : State) :
    (s.retireNext).window = s.window.advance := rfl
@[simp] theorem State.retireNext_slotSquashed (s : State) :
    (s.retireNext).slotSquashed = false := rfl
@[simp] theorem State.retireNext_irq (s : State) :
    (s.retireNext).irq = s.irq.tail := rfl
@[simp] theorem State.retireNext_tick (s : State) :
    (s.retireNext).tick = s.tick + 1 := rfl

@[simp] theorem State.enterException_psw (s : State) (kind : Exception) :
    (s.enterException kind).psw = pswAtEntry s.psw kind (decide (s.params.eDepth ≤ s.k)) := rfl
@[simp] theorem State.enterException_chain (s : State) (kind : Exception) :
    (s.enterException kind).chain = s.chainAtEntry kind := rfl
@[simp] theorem State.enterException_k (s : State) (kind : Exception) :
    (s.enterException kind).k = 0 := rfl
@[simp] theorem State.enterException_pc (s : State) (kind : Exception) :
    (s.enterException kind).pc = QEntry.system kind.entry := rfl
@[simp] theorem State.enterException_pc1 (s : State) (kind : Exception) :
    (s.enterException kind).pc1 = QEntry.system (kind.entry + 1) := rfl
@[simp] theorem State.enterException_pc2 (s : State) (kind : Exception) :
    (s.enterException kind).pc2 = QEntry.system (kind.entry + 2) := rfl
@[simp] theorem State.enterException_loadShadow (s : State) (kind : Exception) :
    (s.enterException kind).loadShadow = [] := rfl
@[simp] theorem State.enterException_mdMoved (s : State) (kind : Exception) :
    (s.enterException kind).mdMoved = false := rfl
@[simp] theorem State.enterException_window (s : State) (kind : Exception) :
    (s.enterException kind).window = s.windowAtEntry kind := rfl
@[simp] theorem State.enterException_slotSquashed (s : State) (kind : Exception) :
    (s.enterException kind).slotSquashed = false := rfl
@[simp] theorem State.enterException_irq (s : State) (kind : Exception) :
    (s.enterException kind).irq = s.irq.tail := rfl
@[simp] theorem State.enterException_tick (s : State) (kind : Exception) :
    (s.enterException kind).tick = s.tick + 1 := rfl

@[simp] theorem State.retire_stale (s : State) (a : After) :
    (s.retire a).stale = s.stale.map s.ageStale := rfl
@[simp] theorem State.retireNext_stale (s : State) :
    (s.retireNext).stale = s.stale.map s.ageStale := rfl
@[simp] theorem State.ageStale_word (s : State) (e : StaleWord) : (s.ageStale e).word = e.word := rfl
@[simp] theorem State.ageStale_age (s : State) (e : StaleWord) : (s.ageStale e).age = e.age + 1 := rfl

@[simp] theorem State.writeGpr_loadShadow (s : State) (r : Reg) (v : Word) :
    (s.writeGpr r v).loadShadow = forgetLoaded (.gpr r) s.loadShadow := rfl
@[simp] theorem State.writeFpr_loadShadow (s : State) (g : FReg) (v : Word) :
    (s.writeFpr g v).loadShadow = forgetLoaded (.fpr g) s.loadShadow := rfl
@[simp] theorem State.fpuCompute_loadShadow (s : State) (op : FpOp) (f1 f2 : FReg) :
    (s.fpuCompute op f1 f2).loadShadow = forgetLoaded (.fpr f2) s.loadShadow := rfl
@[simp] theorem State.writeFpr_f (s : State) (g : FReg) (v : Word) : (s.writeFpr g v).f = s.f.set g.val v := rfl
@[simp] theorem State.storeWord_mem (s : State) (p : Path) (w : WordNumber) (v : Word) :
    (s.storeWord p w v).mem = Memory.writeWord s.mem w v := rfl
@[simp] theorem State.storeWord_storeLog (s : State) (p : Path) (w : WordNumber) (v : Word) :
    (s.storeWord p w v).storeLog = { path := p, word := w, data := v } :: s.storeLog := rfl
@[simp] theorem State.storeWord_stale (s : State) (p : Path) (w : WordNumber) (v : Word) :
    (s.storeWord p w v).stale = noteStale s.stale w := rfl

end Sys2Proof.Machine
end

