-- ==== Sys2Proof/Laws/Ops.lean ====
section
/-! SUPPORT. One lemma for each shared operation, saying once what it does, in the terms of Safety.lean: register reads
and writes, the end of a step, exception entry, loads, stores, arithmetic, branches, the step instructions and the
coprocessor cycles. -/

namespace Sys2Proof.Machine

/-! ### Registers -/

@[simp] theorem State.gpr_zero (s : State) : s.gpr 0 = 0 := rfl

theorem State.gpr_writeGpr (s : State) (d r : Reg) (v : Word) :
    (s.writeGpr d v).gpr r = if r = d then (if d = 0 then 0 else v) else s.gpr r := by
  by_cases hd : d = 0
  · subst hd; by_cases hr : r = 0 <;> simp [State.gpr, State.writeGpr, hr]
  · by_cases hr : r = d
    · subst hr; simp [State.gpr, State.writeGpr, hd]
    · have : d.val ≠ r.val := fun h => hr (Fin.ext h.symm)
      simp [State.gpr, State.writeGpr, hd, hr, Vector.getElem_set_ne, this]

theorem State.fpr_writeFpr (s : State) (f g : FReg) (v : Word) :
    (s.writeFpr f v).fpr g = if g = f then v else s.fpr g := by
  by_cases h : g = f
  · subst h; simp [State.fpr, State.writeFpr]
  · have : f.val ≠ g.val := fun e => h (Fin.ext e.symm)
    simp [State.fpr, State.writeFpr, h, Vector.getElem_set_ne, this]

@[simp] theorem State.fpr_fpuUnspecified (s : State) (f : FReg) :
    s.fpuUnspecified.fpr f = Config.draw s.tick (.fpu f) := by
  simp [State.fpr, State.fpuUnspecified]

theorem writesGpr_writeGpr (s : State) (d : Reg) (v : Word) : WritesGpr d v s (s.writeGpr d v) :=
  ⟨by simp [State.gpr_writeGpr], fun r h => by simp [State.gpr_writeGpr, h]⟩

theorem writesFpr_writeFpr (s : State) (f : FReg) (v : Word) : WritesFpr f v s (s.writeFpr f v) :=
  ⟨by simp [State.fpr_writeFpr], fun g h => by simp [State.fpr_writeFpr, h]⟩

@[simp] theorem forgetLoaded_zero (shadow : List (Option Loaded)) : forgetLoaded (.gpr 0) shadow = shadow := rfl

/-- What a write leaves in the load-slot shadow. -/
theorem forgetLoaded_mem (l m : Loaded) (shadow : List (Option Loaded)) (hl : l ≠ .gpr 0) :
    some m ∈ forgetLoaded l shadow ↔ m ≠ l ∧ some m ∈ shadow := by
  simp only [forgetLoaded, hl, if_false, List.mem_map]
  constructor
  · rintro ⟨o, ho, e⟩
    split at e
    · cases e
    · next hne => exact ⟨fun h => hne (by rw [e, h]), e ▸ ho⟩
  · rintro ⟨h, hm⟩
    exact ⟨some m, hm, by simp [h]⟩

/-- Outside the hazard shadows an operand is what the register holds. -/
theorem State.readGpr_eq (s : State) (d : Draw) (r : Reg) (hl : some (.gpr r) ∉ s.loadShadow) (hw : s.window = .closed) :
    s.readGpr d r = s.gpr r := by
  simp [State.readGpr, State.gprHazard, hl, hw]

@[simp] theorem State.readGpr_zero (s : State) (d : Draw) : s.readGpr d 0 = 0 := by
  simp [State.readGpr, State.gprHazard]

/-- In a hazard shadow an operand other than r0 is a draw. -/
theorem State.readGpr_hazard (s : State) (d : Draw) (r : Reg) (hr : r ≠ 0)
    (h : some (.gpr r) ∈ s.loadShadow ∨ s.window ≠ .closed) : s.readGpr d r = Config.draw s.tick d := by
  have : s.gprHazard r = true := by
    rcases h with h | h <;> simp [State.gprHazard, hr, h]
  simp [State.readGpr, this]

/-! ### Register files through the operations that do not write them -/

@[simp] theorem State.gpr_retire (s : State) (a : After) (r : Reg) : (s.retire a).gpr r = s.gpr r := rfl
@[simp] theorem State.gpr_retireNext (s : State) (r : Reg) : s.retireNext.gpr r = s.gpr r := rfl
@[simp] theorem State.gpr_enterException (s : State) (k : Exception) (r : Reg) : (s.enterException k).gpr r = s.gpr r := rfl
@[simp] theorem State.gpr_storeWord (s : State) (p : Path) (w : WordNumber) (v : Word) (r : Reg) :
    (s.storeWord p w v).gpr r = s.gpr r := rfl
@[simp] theorem State.gpr_writeFpr (s : State) (f : FReg) (v : Word) (r : Reg) : (s.writeFpr f v).gpr r = s.gpr r := rfl
@[simp] theorem State.gpr_fpuCompute (s : State) (op : FpOp) (f g : FReg) (r : Reg) :
    (s.fpuCompute op f g).gpr r = s.gpr r := rfl
@[simp] theorem State.gpr_fpuUnspecified (s : State) (r : Reg) : s.fpuUnspecified.gpr r = s.gpr r := by
  simp only [State.gpr, State.fpuUnspecified_x]
@[simp] theorem State.fpr_retire (s : State) (a : After) (f : FReg) : (s.retire a).fpr f = s.fpr f := rfl
@[simp] theorem State.fpr_retireNext (s : State) (f : FReg) : s.retireNext.fpr f = s.fpr f := rfl
@[simp] theorem State.fpr_enterException (s : State) (k : Exception) (f : FReg) : (s.enterException k).fpr f = s.fpr f := rfl
@[simp] theorem State.fpr_writeGpr (s : State) (d : Reg) (v : Word) (f : FReg) : (s.writeGpr d v).fpr f = s.fpr f := rfl

/-! ### The end of a step -/

/-- The end of a step moves the queue, and the chain with it, unless the chain was to shift anyway. -/
theorem moves_retire (s t : State) (a : After) (h : a.shiftAnyway = false) (hc : t.chain = s.chain) (hk : t.k = s.k)
    (hp1 : t.pc1 = s.pc1) (hp2 : t.pc2 = s.pc2) : Moves a.next a.squash s (t.retire a) := by
  simp [Moves, MovesQueue, MovesChain, h, hc, hk, hp1, hp2]
  exact ⟨rfl, rfl⟩

/-- What the end of a step leaves for the next. -/
theorem leavesShadow_retire (s t : State) (a : After) (written : Option Loaded) (h : a.slotSquashed = false)
    (hl : t.loadShadow = shadowBut written s.loadShadow) (hp : t.params = s.params) (hw : t.window = s.window)
    (hi : t.irq = s.irq) (ht : t.tick = s.tick) : LeavesShadow a.loaded written a.mdMoved s (t.retire a) := by
  simp [LeavesShadow, h, hl, hp, hw, hi, ht]

/-- What is left of the load-slot shadow was in it. -/
theorem mem_of_mem_shadowBut (w : Option Loaded) (l : Loaded) (shadow : List (Option Loaded))
    (h : some l ∈ shadowBut w shadow) : some l ∈ shadow := by
  cases w with
  | none => exact h
  | some m =>
    by_cases hm : m = .gpr 0
    · simpa [shadowBut, forgetLoaded, hm] using h
    · exact ((forgetLoaded_mem m l shadow hm).1 h).2

/-- A step that loads nothing leaves an empty shadow empty. -/
theorem noLoadShadow_of_leavesShadow {s t : State} {w : Option Loaded} {m : Bool} (h : LeavesShadow none w m s t)
    (hs : s.NoLoadShadow) : t.NoLoadShadow := fun l hl => by
  rw [h.1] at hl
  rcases List.mem_cons.1 (List.mem_of_mem_take hl) with e | e
  · cases e
  · exact hs l (mem_of_mem_shadowBut w l _ e)

/-- The end of a step writes no memory. -/
theorem sameMemory_retire (s t : State) (a : After) (hm : t.mem = s.mem) (hl : t.storeLog = s.storeLog)
    (hs : t.stale = s.stale) : SameMemory s (t.retire a) := by
  refine ⟨fun _ => by rw [State.retire_mem, hm], hl, ?_⟩
  rw [State.retire_stale, State.ageStale_words, hs]

/-- An instruction that only writes a register. -/
theorem writeResult_spec (v : Word) (d : Reg) (s : State) : OnlyWritesGpr d v s (writeResult v d s) :=
  ⟨⟨by simp [writeResult, State.gpr_writeGpr], fun r h => by simp [writeResult, State.gpr_writeGpr, h]⟩,
    ⟨rfl, rfl, fun _ => rfl, rfl, rfl⟩, sameMemory_retire s _ _ rfl rfl rfl, moves_retire s _ _ rfl rfl rfl rfl rfl,
    leavesShadow_retire s _ _ _ rfl rfl rfl rfl rfl rfl⟩

/-- A jump through the chain. -/
theorem jumpsThroughChain_retire (s t : State) (next : Word) (hc : t.chain = s.chain) (hk : t.k = s.k)
    (hp1 : t.pc1 = s.pc1) (hp2 : t.pc2 = s.pc2) :
    JumpsThroughChain next s (t.retire { next := next, shiftAnyway := true }) := by
  simp [JumpsThroughChain, MovesQueue, hc, hk, hp1, hp2]
  rfl

/-! ### Exceptions -/

/-- Taking an exception puts the machine at the handler. -/
theorem atHandler_enterException (s : State) (kind : Exception) : AtHandler kind s (s.enterException kind) := by
  refine ⟨⟨rfl, rfl, rfl⟩, ⟨rfl, rfl, rfl, rfl, rfl, ?_, ?_, ?_⟩, ?_, rfl, ⟨rfl, rfl, rfl, ?_⟩, fun _ => rfl, rfl,
    fun _ => rfl, ⟨fun _ => rfl, rfl, rfl⟩, rfl, rfl⟩
  · cases kind <;> simp [pswAtEntry]
  · cases kind <;> simp [pswAtEntry]
  · simp [pswAtEntry]
  · cases kind with
    | interrupt => intro h; simp [State.chainAtEntry, State.chainAtInterrupt, h]
    | overflow => intro h; simp [State.chainAtEntry, State.chainAtInterrupt, h]
    | trap v =>
      simp only [SavesAddresses, State.enterException_chain, State.chainAtEntry, State.chainAtTrap]
      split
      · next h =>
        simp only [Bool.and_eq_true, decide_eq_true_eq] at h
        exact ⟨rfl, rfl, rfl, Or.inr ⟨h.1.1, h.1.2, rfl⟩⟩
      · exact ⟨rfl, rfl, rfl, Or.inl rfl⟩
  · cases kind <;> rfl

/-! ### Arithmetic -/

/-- The sum of the adder. -/
theorem addC_sum (a b : Word) (cin : Bool) : (addC a b cin).sum = a + b + BitVec.ofNat 32 cin.toNat := by
  apply BitVec.eq_of_toNat_eq
  simp [addC, BitVec.toNat_ofNat, BitVec.toNat_add]

/-- The adder's overflow is that the exact signed sum is no signed 32-bit number. -/
theorem addC_overflow (a b : Word) (cin : Bool) :
    (addC a b cin).overflow = true ↔ ¬ FitsSigned (a.toInt + b.toInt + cin.toNat) := by
  have hs : (addC a b cin).sum.toNat = (a.toNat + b.toNat + cin.toNat) % 2 ^ 32 := by simp [addC]
  have hc : cin.toNat ≤ 1 := by cases cin <;> simp
  have ha := a.isLt
  have hb := b.isLt
  simp only [show (addC a b cin).overflow = (a.msb == b.msb && (addC a b cin).sum.msb != a.msb) from rfl,
    BitVec.msb_eq_decide, hs, FitsSigned, BitVec.toInt_eq_toNat_cond]
  generalize a.toNat = x at *
  generalize b.toNat = y at *
  generalize cin.toNat = c at *
  by_cases h1 : 2 ^ 31 ≤ x <;> by_cases h2 : 2 ^ 31 ≤ y <;>
    by_cases h3 : 2 ^ 31 ≤ (x + y + c) % 2 ^ 32 <;>
    simp <;> omega

/-- An addition or a subtraction where the overflow trap is not taken. -/
theorem arithmetic_completes (i : OvfInstr) (r : AddResult) (d : Reg) (s : State)
    (h : s.overflowTraps i r.overflow = false) : OnlyWritesGpr d r.sum s (arithmetic i r d s) := by
  simpa [arithmetic, h, writeResult] using writeResult_spec r.sum d s

/-- An addition or a subtraction where it is. -/
theorem arithmetic_traps (i : OvfInstr) (r : AddResult) (d : Reg) (s : State)
    (h : s.overflowTraps i r.overflow = true) : AtHandler .overflow s (arithmetic i r d s) := by
  simpa [arithmetic, h] using atHandler_enterException s .overflow

/-! ### Loads and stores -/

/-- What a load does. -/
theorem loadGpr_spec (p : Path) (o : BitVec 17) (a d : Reg) (s : State) :
    WritesGpr d (if d = a then Config.draw s.tick .dest else s.loadWord p (s.dataWord (s.effectiveAddress o a))) s
        (loadGpr p o a d s) ∧
      KeepsSpecial s (loadGpr p o a d s) ∧ SameMemory s (loadGpr p o a d s) ∧ GoesOn s (loadGpr p o a d s) ∧
      LeavesShadow (if d = 0 then none else some (.gpr d)) (some (.gpr d)) false s (loadGpr p o a d s) :=
  ⟨⟨by simp [loadGpr, State.gpr_writeGpr], fun r h => by simp [loadGpr, State.gpr_writeGpr, h]⟩,
    ⟨rfl, rfl, fun _ => rfl, rfl, rfl⟩, sameMemory_retire s _ _ rfl rfl rfl, moves_retire s _ _ rfl rfl rfl rfl rfl,
    leavesShadow_retire s _ _ _ rfl rfl rfl rfl rfl rfl⟩

/-- What a store does. -/
theorem storeWord_spec (p : Path) (w : WordNumber) (v : Word) (s : State) :
    WritesWord p w v s (s.storeWord p w v).retireNext ∧ SameGprs s (s.storeWord p w v).retireNext ∧
      KeepsSpecial s (s.storeWord p w v).retireNext ∧ GoesOn s (s.storeWord p w v).retireNext ∧
      LeavesShadow none none false s (s.storeWord p w v).retireNext :=
  ⟨⟨by simp, fun a h => Memory.read_writeWord_outside s.mem w v a h, rfl,
      by simp [noteStale, State.ageStale, StaleWord.queueTurned],
      by rw [State.retireNext_stale, State.ageStale_words, State.storeWord_stale, noteStale_words]⟩,
    fun _ => rfl, ⟨rfl, rfl, fun _ => rfl, rfl, rfl⟩,
    moves_retire s _ _ rfl rfl rfl rfl rfl, leavesShadow_retire s _ _ none rfl rfl rfl rfl rfl rfl⟩

/-! ### The two caches -/

/-- An access is mixed exactly if a store to its word went by the other path. -/
theorem State.mixedAccess_iff (s : State) (p : Path) (w : WordNumber) :
    s.mixedAccess p w = true ↔ ∃ c ∈ s.storeLog, c.word = w ∧ c.path ≠ p := by
  simp [State.mixedAccess]

/-- The upper half of the words is user space. -/
theorem userWord_iff (w : WordNumber) : userWord w = true ↔ 2 ^ 31 ≤ wordAddress w := by
  have := w.isLt
  simp only [userWord, wordAddress, BitVec.getLsbD, Nat.testBit_eq_decide_div_mod_eq, decide_eq_true_eq]
  omega

/-- The listed cache indices fill every buffer exactly if each index shares its buffer with one of them. -/
theorem coversBuffers_iff (l : List (BitVec 6)) :
    coversBuffers l = true ↔ ∀ j, ∃ i ∈ l, Config.cacheBuffer i = Config.cacheBuffer j := by
  simp only [coversBuffers, List.all_eq_true, List.any_eq_true, beq_iff_eq]
  exact ⟨fun h j => h j.toFin (List.mem_finRange _), fun h j _ => h _⟩

/-- A stale word one step on: older by one, with the step's own index added if it is a system-space one, new, and
fetched after the store. -/
theorem State.ageStale_spec (s : State) (e : StaleWord) :
    s.ageStale e = { e with
      age := e.age + 1
      refilled :=
        if 4 ≤ e.age ∧ wordAddress s.fetchNumber < 2 ^ 31 ∧ field s.pc.addr 0 6 ∉ e.refilled then
          field s.pc.addr 0 6 :: e.refilled
        else e.refilled } := by
  have hu : userWord s.fetchNumber = false ↔ wordAddress s.fetchNumber < 2 ^ 31 := by
    rw [← Bool.not_eq_true, userWord_iff]
    omega
  simp [State.ageStale, StaleWord.queueTurned, hu, and_assoc]

/-! ### Addresses -/

/-- The word a data access goes to, as a byte address. -/
theorem wordAddress_dataWord (s : State) (ea : Word) :
    wordAddress (s.dataWord ea) = (forceUser s.psw.cur.U ea).toNat / 4 * 4 := by
  have := (forceUser s.psw.cur.U ea).isLt
  simp only [wordAddress, State.dataWord, field, BitVec.extractLsb'_toNat, Nat.shiftRight_eq_div_pow]
  omega

/-- The forced address. -/
theorem forceUser_toNat (user : Bool) (a : Word) :
    (forceUser user a).toNat = if user then 2 ^ 31 + a.toNat % 2 ^ 31 else a.toNat := by
  cases user
  · rfl
  · have key : ∀ x : Word, x ||| 0x80000000#32 = 0x80000000#32 + (x &&& 0x7FFFFFFF#32) := by
      intro x
      have h1 : x ||| 0x80000000#32 = 0x80000000#32 ||| (x &&& 0x7FFFFFFF#32) := by
        ext i hi
        by_cases h : i = 31
        · subst h; simp
        · have : (0x80000000#32).getLsbD i = false ∧ (0x7FFFFFFF#32).getLsbD i = true := by
            interval_cases i <;> first | exact absurd rfl h | decide
          simp_all [← BitVec.getLsbD_eq_getElem]
      rw [h1]
      refine (BitVec.add_eq_or_of_and_eq_zero _ _ ?_).symm
      rw [BitVec.and_comm, BitVec.and_assoc]
      simp
    simp only [forceUser, if_true, key]
    have hm : (a &&& 0x7FFFFFFF#32).toNat = a.toNat % 2 ^ 31 := by
      rw [BitVec.toNat_and]
      exact Nat.and_two_pow_sub_one_eq_mod a.toNat 31
    rw [BitVec.toNat_add, hm]
    simp only [BitVec.toNat_ofNat]
    omega

/-! ### Branches -/

/-- What a branch does, given what its condition means. -/
theorem branchOn_spec (taken sq : Bool) (P : Prop) (o : BitVec 16) (s : State) (h : taken = true ↔ P) :
    Branches P sq o s (branchOn taken sq o s) := by
  cases taken
  · have hP : ¬ P := fun p => by simp at h; exact h p
    exact ⟨fun p => absurd p hP, fun _ => moves_retire s s _ rfl rfl rfl rfl rfl, fun _ => rfl,
      ⟨rfl, rfl, fun _ => rfl, rfl, rfl⟩, sameMemory_retire s s _ rfl rfl rfl,
      leavesShadow_retire s s _ none rfl rfl rfl rfl rfl rfl⟩
  · have hP : P := h.1 rfl
    exact ⟨fun _ => moves_retire s s _ rfl rfl rfl rfl rfl, fun p => absurd hP p, fun _ => rfl,
      ⟨rfl, rfl, fun _ => rfl, rfl, rfl⟩, sameMemory_retire s s _ rfl rfl rfl,
      leavesShadow_retire s s _ none rfl rfl rfl rfl rfl rfl⟩

/-! ### Step instructions -/

/-- A step instruction that takes no trap. -/
theorem mdInstruction_completes (i : OvfInstr) (op : MdOp) (a b : Word) (r : MdStep) (d : Reg) (s : State)
    (h : s.overflowTraps i (mdOverflow s.params op a b s.mdSeen r.overflow) = false) :
    WritesGpr d (if s.mdUnsettled then Config.draw s.tick .dest else r.result) s (mdInstruction i op a b r d s) ∧
      (mdInstruction i op a b r d s).md = (if s.mdUnsettled then Config.draw s.tick .md else r.md) ∧
      SamePsw s (mdInstruction i op a b r d s) ∧ SameFprs s (mdInstruction i op a b r d s) ∧
      SameCops s (mdInstruction i op a b r d s) ∧ SameParams s (mdInstruction i op a b r d s) ∧
      SameMemory s (mdInstruction i op a b r d s) ∧ GoesOn s (mdInstruction i op a b r d s) ∧
      LeavesShadow none (some (.gpr d)) false s (mdInstruction i op a b r d s) := by
  have e : mdInstruction i op a b r d s =
      { s.writeGpr d (if s.mdUnsettled then Config.draw s.tick .dest else r.result) with
        md := if s.mdUnsettled then Config.draw s.tick .md else r.md }.retireNext := by
    simp [mdInstruction, h]
  rw [e]
  have w := writesGpr_writeGpr s d (if s.mdUnsettled then Config.draw s.tick .dest else r.result)
  exact ⟨⟨w.1, w.2⟩, rfl, rfl, fun _ => rfl, rfl, rfl, sameMemory_retire s _ _ rfl rfl rfl,
    moves_retire s _ _ rfl rfl rfl rfl rfl, leavesShadow_retire s _ _ _ rfl rfl rfl rfl rfl rfl⟩

/-- A step instruction that takes the trap. -/
theorem mdInstruction_traps (i : OvfInstr) (op : MdOp) (a b : Word) (r : MdStep) (d : Reg) (s : State)
    (h : s.overflowTraps i (mdOverflow s.params op a b s.mdSeen r.overflow) = true) :
    AtHandler .overflow s (mdInstruction i op a b r d s) := by
  simpa [mdInstruction, h] using atHandler_enterException s .overflow

/-- The trap of a step instruction in the terms of the claims; the default `MD_OVF` has none for `dstep`. -/
theorem State.mdTraps_iff (s : State) (op : MdOp) (a b md : Word) (adder : Bool) :
    s.MdTraps op a b md (adder = true ∧ op ≠ .dstep) ↔
      s.overflowTraps (mdOvfInstr op) (mdOverflow s.params op a b md adder) = true := by
  cases hm : s.params.mdOvf <;>
    simp [State.MdTraps, State.overflowTraps, mdOverflow, hm, and_comm]

/-! ### Coprocessor cycles -/

/-- Everything but the FPU's registers, their load-slot shadow and the coprocessors' history is as before a coprocessor
cycle. -/
theorem copCycle_frame (s : State) (kind : CopKind) (a data : Word) :
    ∃ f shadow log, (s.copCycle kind a data).1 = { s with f := f, loadShadow := shadow, copLog := log } ∧
      (s.fpuAddressed a = true → log = s.copLog) ∧
      (s.fpuAddressed a = false → f = s.f ∧ shadow = s.loadShadow ∧
        log = { kind := kind, addr := a, data := data, user := s.psw.cur.U } :: s.copLog) := by
  by_cases h : s.fpuAddressed a = true
  · refine ⟨(s.copCycle kind a data).1.f, (s.copCycle kind a data).1.loadShadow, s.copLog, ?_, fun _ => rfl, fun e => by simp [h] at e⟩
    simp only [State.copCycle, h, if_true, State.fpuCycle]
    cases kind <;> simp only [] <;> split <;> rfl
  · simp only [Bool.not_eq_true] at h
    exact ⟨s.f, s.loadShadow, _, by simp [State.copCycle, h, State.outsideCycle], fun e => by simp [h] at e,
      fun _ => ⟨rfl, rfl, rfl⟩⟩

/-- An FPU cycle with an undefined function touches the floating point registers only. -/
theorem fpuUnspecified_eq (s : State) : ∃ f, s.fpuUnspecified = { s with f := f } := ⟨_, rfl⟩

/-- The end of a step after an undefined FPU cycle. -/
theorem leavesShadow_fpuUnspecified (s : State) : LeavesShadow none none false s s.fpuUnspecified.retireNext := by
  obtain ⟨f, e⟩ := fpuUnspecified_eq s
  rw [e]
  exact leavesShadow_retire s _ _ none rfl rfl rfl rfl rfl rfl

/-- The cycle goes to the FPU exactly if there is one and the COP# bits of the address as driven are 0. -/
theorem fpuAddressed_iff (s : State) (a : Word) :
    s.fpuAddressed a = true ↔ s.params.hasFpu = true ∧ a.toNat / 2 ^ 14 % 8 = 0 := by
  have e : copNumber a = 0#3 ↔ a.toNat / 2 ^ 14 % 8 = 0 := by
    rw [← BitVec.toNat_inj]
    simp [copNumber, field, BitVec.extractLsb'_toNat, Nat.shiftRight_eq_div_pow]
  simp [State.fpuAddressed, e]

end Sys2Proof.Machine
end

