-- ==== Sys2Proof/Laws/Exec.lean ====
section
/-! SUPPORT. Everything an instruction can do, said once over all instructions: a next state is the end of a step over a
state with the instruction's own effects, or the entry of an overflow trap or a `trap`. What holds of every step is
proved from this without unfolding a meaning again. -/

namespace Sys2Proof.Machine

/-- The own effects of instruction `i`: `u` is `s` but for the fields it may write, and what it may write there. -/
structure Effect (i : Instr) (s u : State) : Prop where
  kept : u = { s with
    x := u.x, md := u.md, psw := u.psw, chain := u.chain, f := u.f, mem := u.mem, loadShadow := u.loadShadow,
    storeLog := u.storeLog, stale := u.stale, copLog := u.copLog }
  x : u.x = s.x ∨ ∃ d v, u.x = (s.writeGpr d v).x
  psw : u.psw = s.psw ∨
    s.psw.cur.U = false ∧ u.psw.e = s.psw.e ∧ ((∃ a, i = .movtos a .psw) ∨ i = .jpcrs)
  chain : u.chain = s.chain ∨ u.psw.cur.S = false
  mem : (u.mem = s.mem ∧ u.storeLog = s.storeLog ∧ u.stale = s.stale) ∨
    ∃ p ea v, u.mem = (s.storeWord p (s.dataWord ea) v).mem ∧
      u.storeLog = (s.storeWord p (s.dataWord ea) v).storeLog ∧ u.stale = (s.storeWord p (s.dataWord ea) v).stale

/-- The state an instruction answers. -/
def Answers (i : Instr) (s t : State) : Prop :=
  (∃ u a, Effect i s u ∧ t = u.retire a) ∨ ∃ kind, kind ≠ .interrupt ∧ t = s.enterException kind

theorem effect_self (i : Instr) (s : State) : Effect i s s :=
  ⟨rfl, .inl rfl, .inl rfl, .inl rfl, .inl ⟨rfl, rfl, rfl⟩⟩

theorem answers_retire {i : Instr} {s u : State} {a : After} (h : Effect i s u) : Answers i s (u.retire a) :=
  .inl ⟨u, a, h, rfl⟩

theorem effect_writeGpr (i : Instr) (s : State) (d : Reg) (v : Word) : Effect i s (s.writeGpr d v) :=
  ⟨rfl, .inr ⟨d, v, rfl⟩, .inl rfl, .inl rfl, .inl ⟨rfl, rfl, rfl⟩⟩

theorem effect_storeWord (i : Instr) (s : State) (p : Path) (ea v : Word) :
    Effect i s (s.storeWord p (s.dataWord ea) v) :=
  ⟨rfl, .inl rfl, .inl rfl, .inl rfl, .inr ⟨p, ea, v, rfl, rfl, rfl⟩⟩

theorem effect_copCycle (i : Instr) (s : State) (kind : CopKind) (a data : Word) :
    Effect i s (s.copCycle kind a data).1 := by
  obtain ⟨f, shadow, log, e, -, -⟩ := copCycle_frame s kind a data
  rw [e]
  exact ⟨rfl, .inl rfl, .inl rfl, .inl rfl, .inl ⟨rfl, rfl, rfl⟩⟩

theorem effect_copCycle_writeGpr (i : Instr) (s : State) (kind : CopKind) (a data : Word) (d : Reg) (v : Word) :
    Effect i s ((s.copCycle kind a data).1.writeGpr d v) := by
  obtain ⟨f, shadow, log, e, -, -⟩ := copCycle_frame s kind a data
  rw [e]
  exact ⟨rfl, .inr ⟨d, v, rfl⟩, .inl rfl, .inl rfl, .inl ⟨rfl, rfl, rfl⟩⟩

theorem answers_loadGpr (i : Instr) (p : Path) (o : BitVec 17) (a d : Reg) (s : State) :
    Answers i s (loadGpr p o a d s) := answers_retire (effect_writeGpr i s _ _)

theorem answers_storeGpr (i : Instr) (p : Path) (o : BitVec 17) (a b : Reg) (s : State) :
    Answers i s (storeGpr p o a b s) := answers_retire (effect_storeWord i s _ _ _)

theorem answers_branchOn (i : Instr) (taken sq : Bool) (o : BitVec 16) (s : State) :
    Answers i s (branchOn taken sq o s) := by
  cases taken <;> exact answers_retire (effect_self i s)

theorem answers_writeResult (i : Instr) (v : Word) (d : Reg) (s : State) : Answers i s (writeResult v d s) :=
  answers_retire (effect_writeGpr i s _ _)

theorem answers_arithmetic (i : Instr) (o : OvfInstr) (r : AddResult) (d : Reg) (s : State) :
    Answers i s (arithmetic o r d s) := by
  simp only [arithmetic]
  split
  · exact .inr ⟨.overflow, by simp, rfl⟩
  · exact answers_retire (effect_writeGpr i s _ _)

theorem answers_mdInstruction (i : Instr) (o : OvfInstr) (op : MdOp) (a b : Word) (r : MdStep) (d : Reg) (s : State) :
    Answers i s (mdInstruction o op a b r d s) := by
  simp only [mdInstruction]
  split
  · exact .inr ⟨.overflow, by simp, rfl⟩
  · exact answers_retire ⟨rfl, .inr ⟨d, _, rfl⟩, .inl rfl, .inl rfl, .inl ⟨rfl, rfl, rfl⟩⟩

theorem answers_moveFromCop (i : Instr) (a : Word) (b d : Reg) (s : State) : Answers i s (moveFromCop a b d s) := by
  simp only [moveFromCop]
  split
  · exact answers_retire (effect_copCycle i s _ _ _)
  · exact answers_retire (effect_copCycle_writeGpr i s _ _ _ _ _)

theorem answers_moveToCop (i : Instr) (a : Word) (b : Reg) (s : State) : Answers i s (moveToCop a b s) :=
  answers_retire (effect_copCycle i s _ _ _)

theorem answers_aluCop (i : Instr) (a : Word) (s : State) : Answers i s (aluCop a s) :=
  answers_retire (effect_copCycle i s _ _ _)

theorem answers_execLdf (o : BitVec 17) (a : Reg) (f : FReg) (s t : State) (h : execLdf o a f s = .next t) :
    Answers (.ldf o a f) s t := by
  simp only [execLdf] at h
  split at h
  · cases h
    exact answers_retire ⟨rfl, .inl rfl, .inl rfl, .inl rfl, .inl ⟨rfl, rfl, rfl⟩⟩
  · cases h

theorem answers_execStf (o : BitVec 17) (a : Reg) (f : FReg) (s t : State) (h : execStf o a f s = .next t) :
    Answers (.stf o a f) s t := by
  simp only [execStf] at h
  split at h
  · cases h
    exact answers_retire (effect_storeWord _ s _ _ _)
  · cases h

theorem answers_execJpcrs (s t : State) (h : execJpcrs s = .next t) : Answers .jpcrs s t := by
  simp only [execJpcrs] at h
  split at h
  · cases h
    exact answers_retire (effect_self _ s)
  · next hu =>
    split at h
    · cases h
      exact answers_retire ⟨rfl, .inl rfl, .inr ⟨by simpa using hu, rfl, .inr rfl⟩, .inl rfl, .inl ⟨rfl, rfl, rfl⟩⟩
    · cases h

theorem answers_execMovfrs (r : SpecSrc) (d : Reg) (s t : State) (h : execMovfrs r d s = .next t) :
    Answers (.movfrs r d) s t := by
  cases r
  · cases h; exact answers_writeResult _ _ _ _
  · cases h; exact answers_writeResult _ _ _ _
  · simp only [execMovfrs] at h
    split at h
    · cases h
    · next hs =>
      cases h
      exact answers_retire ⟨rfl, .inr ⟨d, _, rfl⟩, .inl rfl, .inr (by simpa using hs), .inl ⟨rfl, rfl, rfl⟩⟩

theorem answers_execMovtos (a : Reg) (r : SpecDst) (s t : State) (h : execMovtos a r s = .next t) :
    Answers (.movtos a r) s t := by
  cases r
  · cases h
    refine answers_retire ⟨rfl, .inl rfl, ?_, .inl rfl, .inl ⟨rfl, rfl, rfl⟩⟩
    cases hu : s.psw.cur.U
    · exact .inr ⟨rfl, by simp [pswWritten], .inl ⟨a, rfl⟩⟩
    · exact .inl (by simp)
  · cases h
    exact answers_retire ⟨rfl, .inl rfl, .inl rfl, .inl rfl, .inl ⟨rfl, rfl, rfl⟩⟩
  · simp only [execMovtos] at h
    split at h
    · cases h
    · next hs =>
      cases h
      exact answers_retire ⟨rfl, .inl rfl, .inl rfl, .inr (by simpa using hs), .inl ⟨rfl, rfl, rfl⟩⟩

/-- Every next state of an instruction is the end of a step over its own effects, or an overflow or trap entry. -/
theorem exec_answers (i : Instr) (s t : State) (h : exec i s = .next t) : Answers i s t := by
  cases i with
  | ld o a d => cases h; exact answers_loadGpr _ _ _ _ _ _
  | ldt o a d => cases h; exact answers_loadGpr _ _ _ _ _ _
  | st o a b => cases h; exact answers_storeGpr _ _ _ _ _ _
  | stt o a b => cases h; exact answers_storeGpr _ _ _ _ _ _
  | ldf o a f => exact answers_execLdf o a f s t h
  | stf o a f => exact answers_execStf o a f s t h
  | movfrc c a d => cases h; exact answers_moveFromCop _ _ _ _ _
  | movtoc c a b => cases h; exact answers_moveToCop _ _ _ _
  | aluc c a => cases h; exact answers_aluCop _ _ _
  | beq a b o => cases h; exact answers_branchOn _ _ _ _ _
  | beqsq a b o => cases h; exact answers_branchOn _ _ _ _ _
  | bge a b o => cases h; exact answers_branchOn _ _ _ _ _
  | bgesq a b o => cases h; exact answers_branchOn _ _ _ _ _
  | bhs a b o => cases h; exact answers_branchOn _ _ _ _ _
  | bhssq a b o => cases h; exact answers_branchOn _ _ _ _ _
  | blo a b o => cases h; exact answers_branchOn _ _ _ _ _
  | blosq a b o => cases h; exact answers_branchOn _ _ _ _ _
  | blt a b o => cases h; exact answers_branchOn _ _ _ _ _
  | bltsq a b o => cases h; exact answers_branchOn _ _ _ _ _
  | bne a b o => cases h; exact answers_branchOn _ _ _ _ _
  | bnesq a b o => cases h; exact answers_branchOn _ _ _ _ _
  | add a b d => cases h; exact answers_arithmetic _ _ _ _ _
  | sub a b d => cases h; exact answers_arithmetic _ _ _ _ _
  | subnc a b d => cases h; exact answers_arithmetic _ _ _ _ _
  | addi a n d => cases h; exact answers_arithmetic _ _ _ _ _
  | mov a d => cases h; exact answers_arithmetic _ _ _ _ _
  | nop => cases h; exact answers_arithmetic _ _ _ _ _
  | dstep a b d => cases h; exact answers_mdInstruction _ _ _ _ _ _ _ _
  | mstart b d => cases h; exact answers_mdInstruction _ _ _ _ _ _ _ _
  | mstep a b d => cases h; exact answers_mdInstruction _ _ _ _ _ _ _ _
  | and a b d => cases h; exact answers_writeResult _ _ _ _
  | bic a b d => cases h; exact answers_writeResult _ _ _ _
  | not a d => cases h; exact answers_writeResult _ _ _ _
  | or a b d => cases h; exact answers_writeResult _ _ _ _
  | xor a b d => cases h; exact answers_writeResult _ _ _ _
  | asr a d n => cases h; exact answers_writeResult _ _ _ _
  | rotlb a b d => cases h; exact answers_writeResult _ _ _ _
  | rotlcb a b d => cases h; exact answers_writeResult _ _ _ _
  | sh a b d n => cases h; exact answers_writeResult _ _ _ _
  | jpc => cases h; exact answers_retire (effect_self _ s)
  | jpcrs => exact answers_execJpcrs s t h
  | jspci a n d => cases h; exact answers_retire (effect_writeGpr _ s _ _)
  | movfrs r d => exact answers_execMovfrs r d s t h
  | movtos a r => exact answers_execMovtos a r s t h
  | trap v => cases h; exact .inr ⟨.trap v, by simp, rfl⟩
  | hsc => cases h
  | fadd f g => cases h; exact answers_aluCop _ _ _
  | fsub f g => cases h; exact answers_aluCop _ _ _
  | fmul f g => cases h; exact answers_aluCop _ _ _
  | fdiv f g => cases h; exact answers_aluCop _ _ _
  | cvtif f g => cases h; exact answers_aluCop _ _ _
  | cvtfi f g => cases h; exact answers_aluCop _ _ _
  | imul f g => cases h; exact answers_aluCop _ _ _
  | idiv f g => cases h; exact answers_aluCop _ _ _
  | mod f g => cases h; exact answers_aluCop _ _ _
  | movif b f => cases h; exact answers_moveToCop _ _ _ _
  | movfi f d => cases h; exact answers_moveFromCop _ _ _ _ _

/-- Everything a step can do: take an interrupt, skip a squashed slot, or run the instruction it fetched. -/
theorem step_answers (s t : State) (h : step s = .next t) :
    t = s.enterException .interrupt ∨ (s.pc.squashed = true ∧ t = s.skipSquashed) ∨
      ∃ i, decode s.fetch = .ok i ∧ exec i s = .next t := by
  simp only [step] at h
  split at h
  · cases h; exact .inl rfl
  · split at h
    · next hq => cases h; exact .inr (.inl ⟨hq, rfl⟩)
    · simp only [State.runWord] at h
      split at h
      · next i hi => exact .inr (.inr ⟨i, hi, h⟩)
      · cases h

end Sys2Proof.Machine
end

