-- ==== Sys2Proof/Tests/Slice0.lean ====
section
/-! SUPPORT. The model's own tests: the refusals of `Instr.wf`, a word of every constructor, single steps with the
values that spec/95 prints or that its rules give, and, for every obligation with hypotheses, a state that meets them
(`witness_<name of the obligation>`). -/

set_option maxRecDepth 4000

namespace Sys2Proof.Tests

open Sys2Proof Sys2Proof.Machine

/-! ## Helpers -/

/-- `s` with the listed general registers written. -/
def holding (s : State) (regs : List (Reg × Word)) : State := regs.foldl (fun t p => t.writeGpr p.1 p.2) s

/-- The state of spec/95: system state, V = 1, M = 1, S = 1, with the listed registers. -/
def regs (l : List (Reg × Word)) : State := holding State.reset l

/-- The PSW with the given word in the default layout. -/
def pswOf (w : Word) : Psw := { pswWritten {} State.reset.psw w with e := w.getLsbD 8 }

/-- `s` with the PSW of a word. -/
def inPsw (w : Word) (s : State) : State := { s with psw := pswOf w }

/-- `s` with `v` at byte address `a`, a multiple of 4. -/
def atAddress (a : Nat) (v : Word) (s : State) : State :=
  { s with mem := Memory.writeWord s.mem (BitVec.ofNat 30 (a / 4)) v }

/-- `s` with the queue at `a`, fetched in the given state. -/
def queueAt (a : Word) (user : Bool) (s : State) : State :=
  { s with
    pc := { addr := a, user := user, squashed := false }
    pc1 := { addr := a + 1, user := user, squashed := false }
    pc2 := { addr := a + 2, user := user, squashed := false } }

/-- `s` with a refilled chain, as straight-line execution leaves it. -/
def refilled (s : State) : State :=
  { s with
    chain := { c1 := s.pc2.addr, c2 := s.pc1.addr, c3 := s.pc.addr, c4 := s.pc.addr - 1 }
    k := 4 }

/-- `s` with a frozen chain. -/
def frozen (c2 c3 c4 : Word) (s : State) : State :=
  { s with
    psw := { s.psw with cur := { s.psw.cur with S := false } }
    chain := { c1 := 0xC1#32, c2 := c2, c3 := c3, c4 := c4 }
    k := 0 }

/-- The next state of an outcome. -/
def nextOf : Result → Option State
  | .next t => some t
  | .fault _ => none
  | .refused _ => none

/-- The outcome is a next state. -/
def isNext : Result → Bool
  | .next _ => true
  | .fault _ => false
  | .refused _ => false

/-- The reason of a fault. -/
def faultOf : Result → Option Fault
  | .next _ => none
  | .fault why => some why
  | .refused _ => none

/-- Register `r` after the word. -/
def gprAfter (s : State) (w : Word) (r : Reg) : Option Word := (nextOf (s.runWord w)).map fun t => t.gpr r

/-- Floating point register `f` after the word. -/
def fprAfter (s : State) (w : Word) (f : FReg) : Option Word := (nextOf (s.runWord w)).map fun t => t.fpr f

/-- MD after the word. -/
def mdAfter (s : State) (w : Word) : Option Word := (nextOf (s.runWord w)).map fun t => t.md

/-- The word at byte address `a` after the word. -/
def wordAfter (s : State) (w : Word) (a : Nat) : Option Word :=
  (nextOf (s.runWord w)).map fun t => Memory.readWord t.mem (BitVec.ofNat 30 (a / 4))

/-- The address entering the queue, and the two squash marks, after the word. -/
def queueAfter (s : State) (w : Word) : Option (Word × Bool × Bool) :=
  (nextOf (s.runWord w)).map fun t => (t.pc2.addr, t.pc.squashed, t.pc1.squashed)

/-- The PSW after the word, the unused positions read as 0. -/
def pswAfter (s : State) (w : Word) : Option Word := (nextOf (s.runWord w)).map fun t => pswWord {} t.psw 0

/-- The chain's last three entries after an outcome. -/
def chainAfter (o : Result) : Option (Word × Word × Word) :=
  (nextOf o).map fun t => (t.chain.c2, t.chain.c3, t.chain.c4)

/-! ## `Instr.wf` refuses the ill-formed terms (rules R98, R100, R105) -/

theorem test_wf_movfrc_dest_zero : (Instr.movfrc 0x4123 1 0).wf = false := by decide
theorem test_wf_movfrc_is_movfi : (Instr.movfrc 0x0A30 0 7).wf = false := by decide
theorem test_wf_movtoc_is_movif : (Instr.movtoc 0x0903 0 7).wf = false := by decide
theorem test_wf_aluc_is_fadd : (Instr.aluc 0x0012 0).wf = false := by decide
theorem test_wf_add_is_mov : (Instr.add 1 0 3).wf = false := by decide
theorem test_wf_mov_is_nop : (Instr.mov 0 0).wf = false := by decide
theorem test_wf_asr_amount_zero : (Instr.asr 1 3 0).wf = false := by decide
theorem test_wf_asr_amount_33 : (Instr.asr 1 3 33).wf = false := by decide
theorem test_wf_sh_amount_zero : (Instr.sh 1 2 3 0).wf = false := by decide
theorem test_wf_sh_amount_33 : (Instr.sh 1 2 3 33).wf = false := by decide
theorem test_wf_movfi_dest_zero : (Instr.movfi 3 0).wf = false := by decide

/-! ## One word of every constructor. First, for every format, a word bit by bit from the encoding tables of
spec/30; then the words of spec/95, and words from the bit patterns of the opcode table. -/

theorem test_bits_memory_ld :
    decode (0b10#2 ++ 0b000#3 ++ 0b00001#5 ++ 0b00010#5 ++ 0b00000000000001000#17) = .ok (.ld 8 1 2) := by decide
theorem test_bits_branch_bltsq :
    decode (0b00#2 ++ 0b011#3 ++ 0b01001#5 ++ 0b01010#5 ++ 0b1#1 ++ 0b1000000000000000#16) =
      .ok (.bltsq 9 10 0x8000) := by decide
theorem test_bits_compute_bic :
    decode (0b01#2 ++ 0b100#3 ++ 0b00001#5 ++ 0b00010#5 ++ 0b00011#5 ++ 0b000000001011#12) = .ok (.bic 1 2 3) := by
  decide
theorem test_bits_immediate_addi :
    decode (0b11#2 ++ 0b100#3 ++ 0b00001#5 ++ 0b00010#5 ++ 0b11111111111111111#17) = .ok (.addi 1 0x1FFFF 2) := by
  decide
theorem test_bits_trap :
    decode (0b11110000000000000000#20 ++ 0#1 ++ 0b11111101#8 ++ 0b011#3) = .ok (.trap 2) := by decide
theorem test_bits_fpu_fdiv :
    decode (0b10#2 ++ 0b101#3 ++ 0b00000#5 ++ 0b00000#5 ++ 0b000#3 ++ 0b000011#6 ++ 0b0001#4 ++ 0b0010#4) =
      .ok (.fdiv 1 2) := by decide

theorem test_word_ld : decode 0x8045FFFC#32 = .ok (.ld 0x1FFFC 1 2) := by decide
theorem test_word_st : decode 0x9047FFFC#32 = .ok (.st 0x1FFFC 1 3) := by decide
theorem test_word_ldf : decode 0xA0460004#32 = .ok (.ldf 4 1 3) := by decide
theorem test_word_ldf_field_19 : decode 0xA0660004#32 = .ok (.ldf 4 1 3) := by decide
theorem test_word_stf : decode 0xB05E0000#32 = .ok (.stf 0 1 15) := by decide
theorem test_word_ldt : decode 0x88440008#32 = .ok (.ldt 8 1 2) := by decide
theorem test_word_stt : decode 0x98460000#32 = .ok (.stt 0 1 3) := by decide
theorem test_word_movfrc : decode 0xA84E4123#32 = .ok (.movfrc 0x4123 1 7) := by decide
theorem test_word_movtoc : decode 0xB80A4100#32 = .ok (.movtoc 0x4100 0 5) := by decide
theorem test_word_aluc : decode 0xA8010000#32 = .ok (.aluc 0x10000 0) := by decide
theorem test_word_beq : decode 0x08440008#32 = .ok (.beq 1 2 8) := by decide
theorem test_word_beqsq : decode 0x08450008#32 = .ok (.beqsq 1 2 8) := by decide
theorem test_word_bge : decode 0x39000000#32 = .ok (.bge 4 0 0) := by decide
theorem test_word_bgesq : decode 0x39010000#32 = .ok (.bgesq 4 0 0) := by decide
theorem test_word_bhs : decode 0x11D07FFF#32 = .ok (.bhs 7 8 0x7FFF) := by decide
theorem test_word_bhssq : decode 0x108D0001#32 = .ok (.bhssq 2 6 1) := by decide
theorem test_word_blo : decode 0x314CFFFE#32 = .ok (.blo 5 6 0xFFFE) := by decide
theorem test_word_blosq : decode 0x314DFFFE#32 = .ok (.blosq 5 6 0xFFFE) := by decide
theorem test_word_blt : decode 0x1A548000#32 = .ok (.blt 9 10 0x8000) := by decide
theorem test_word_bltsq : decode 0x1A558000#32 = .ok (.bltsq 9 10 0x8000) := by decide
theorem test_word_bne : decode 0x28C0FFFB#32 = .ok (.bne 3 0 0xFFFB) := by decide
theorem test_word_bnesq : decode 0x28C1FFFB#32 = .ok (.bnesq 3 0 0xFFFB) := by decide
theorem test_word_add : decode 0x60443019#32 = .ok (.add 1 2 3) := by decide
theorem test_word_dstep : decode 0x414C5166#32 = .ok (.dstep 5 6 5) := by decide
theorem test_word_mstart : decode 0x400430E6#32 = .ok (.mstart 2 3) := by decide
theorem test_word_mstep : decode 0x40C43099#32 = .ok (.mstep 3 2 3) := by decide
theorem test_word_sub : decode 0x60443066#32 = .ok (.sub 1 2 3) := by decide
theorem test_word_subnc : decode 0x60443026#32 = .ok (.subnc 1 2 3) := by decide
theorem test_word_and : decode 0x60443023#32 = .ok (.and 1 2 3) := by decide
theorem test_word_bic : decode 0x6044300B#32 = .ok (.bic 1 2 3) := by decide
theorem test_word_not : decode 0x6040300F#32 = .ok (.not 1 3) := by decide
theorem test_word_or : decode 0x6044303B#32 = .ok (.or 1 2 3) := by decide
theorem test_word_xor : decode 0x6044301B#32 = .ok (.xor 1 2 3) := by decide
theorem test_word_mov : decode 0x60403019#32 = .ok (.mov 1 3) := by decide
theorem test_word_asr : decode 0x49003168#32 = .ok (.asr 4 3 5) := by decide
theorem test_word_rotlb : decode 0x484430C0#32 = .ok (.rotlb 1 2 3) := by decide
theorem test_word_rotlcb : decode 0x48443080#32 = .ok (.rotlcb 1 2 3) := by decide
theorem test_word_sh : decode 0x49045262#32 = .ok (.sh 4 2 5 7) := by decide
theorem test_word_nop : decode 0x60000019#32 = .ok .nop := by decide
theorem test_word_addi : decode 0xE0020002#32 = .ok (.addi 0 2 1) := by decide
theorem test_word_jpc : decode 0xE8000003#32 = .ok .jpc := by decide
theorem test_word_jpcrs : decode 0xF8000003#32 = .ok .jpcrs := by decide
theorem test_word_jspci : decode 0xC14BFFFF#32 = .ok (.jspci 5 0x1FFFF 5) := by decide
theorem test_word_movfrs : decode 0xD8140004#32 = .ok (.movfrs .pcm4 10) := by decide
theorem test_word_movfrs_psw : decode 0xD81A0001#32 = .ok (.movfrs .psw 13) := by decide
theorem test_word_movtos : decode 0xD1000002#32 = .ok (.movtos 4 .md) := by decide
theorem test_word_movtos_pcm1 : decode 0xD2800004#32 = .ok (.movtos 10 .pcm1) := by decide
theorem test_word_trap : decode 0xF0000003#32 = .ok (.trap 255) := by decide
theorem test_word_hsc : decode 0xCFC00000#32 = .ok .hsc := by decide
theorem test_word_fadd : decode 0xA80000F0#32 = .ok (.fadd 15 0) := by decide
theorem test_word_fsub : decode 0xA8000112#32 = .ok (.fsub 1 2) := by decide
theorem test_word_fmul : decode 0xA8000212#32 = .ok (.fmul 1 2) := by decide
theorem test_word_fdiv : decode 0xA8000312#32 = .ok (.fdiv 1 2) := by decide
theorem test_word_cvtif : decode 0xA8000412#32 = .ok (.cvtif 1 2) := by decide
theorem test_word_cvtfi : decode 0xA8000512#32 = .ok (.cvtfi 1 2) := by decide
theorem test_word_imul : decode 0xA8000612#32 = .ok (.imul 1 2) := by decide
theorem test_word_idiv : decode 0xA8000712#32 = .ok (.idiv 1 2) := by decide
theorem test_word_mod : decode 0xA8000812#32 = .ok (.mod 1 2) := by decide
theorem test_word_movif : decode 0xB80E0903#32 = .ok (.movif 7 3) := by decide
theorem test_word_movfi : decode 0xA80E0A30#32 = .ok (.movfi 3 7) := by decide

/-- The words of `DecodeThenEncode` and the encoder meet: an encoded instruction of each format. -/
theorem test_encode_words :
    encode (.stt 0 1 3) = 0x98460000#32 ∧ encode (.bnesq 3 0 0xFFFB) = 0x28C1FFFB#32 ∧
      encode (.asr 4 3 5) = 0x49003168#32 ∧ encode (.trap 7) = 0xF00007C3#32 ∧
      encode (.movfi 3 7) = 0xA80E0A30#32 := by decide

/-- The host's view of the decoder: bit 0 is the least significant bit of the word. -/
theorem test_decode_table_word :
    decodeTableWord 32 0x60443019 = some (.add 1 2 3) ∧ decodeTableWord 32 0 = none := by decide

/-! ## Single steps: values of spec/95 sections 1 and 2 -/

/-! Memory instructions (section 2.1). -/

theorem test_step_ld_wraps :
    gprAfter (atAddress 4 0x00C0FFEE#32 (regs [(1, 0xFFFFFFFC#32)])) 0x80440008#32 2 = some 0x00C0FFEE#32 := by decide
theorem test_step_ld_user_forced :
    gprAfter (inPsw 0x80000145#32 (atAddress 0x80001000 0xAAAA5555#32 (regs [(1, 0x1000#32)]))) 0x80440000#32 2 =
      some 0xAAAA5555#32 := by decide
theorem test_step_st_whole_word :
    wordAfter (regs [(1, 0x1000#32), (3, 0xCAFEBABE#32)]) 0x90460002#32 0x1000 = some 0xCAFEBABE#32 := by decide
theorem test_step_st_user_forced :
    wordAfter (inPsw 0x80000145#32 (regs [(1, 0x1000#32), (3, 7#32)])) 0x90460000#32 0x80001000 = some 7#32 := by decide
theorem test_step_ldt :
    gprAfter (atAddress 0x1008 0xDEADBEEF#32 (regs [(1, 0x1000#32)])) 0x88440008#32 2 = some 0xDEADBEEF#32 := by decide
theorem test_step_stt : wordAfter (regs [(1, 0x1000#32), (3, 9#32)]) 0x98460000#32 0x1000 = some 9#32 := by decide
theorem test_step_ldf :
    fprAfter (atAddress 0x1008 0xDEADBEEF#32 (regs [(1, 0x1004#32)])) 0xA0660004#32 3 = some 0xDEADBEEF#32 := by decide
theorem test_step_stf :
    wordAfter ((regs [(1, 0x1000#32)]).writeFpr 15 0x3F800000#32) 0xB05E0000#32 0x1000 = some 0x3F800000#32 := by decide
theorem test_step_movfrc_address :
    ((nextOf ((regs [(1, 0x10#32)]).runWord 0xA84E4123#32)).map fun t => t.copLog) =
      some [{ kind := .fromCop, addr := 0x4133#32, data := 0, user := false }] := by decide
theorem test_step_movtoc_cycle :
    ((nextOf ((regs [(5, 0x12345678#32)]).runWord 0xB80A4100#32)).map fun t => t.copLog) =
      some [{ kind := .toCop, addr := 0x4100#32, data := 0x12345678#32, user := false }] := by decide
theorem test_step_aluc_sign_extends :
    ((nextOf (State.reset.runWord 0xA8010000#32)).map fun t => t.copLog) =
      some [{ kind := .alu, addr := 0xFFFF0000#32, data := 0, user := false }] := by decide
/-- Section 2.6: the load slot holds the register. -/
theorem test_step_ld_shadow :
    ((nextOf ((regs [(1, 0x1000#32)]).runWord 0x80440000#32)).map fun t => t.loadShadow) = some [some (.gpr 2)] := by
  decide
/-- Rule R351 with `LOAD_SLOTS` = 2: the slot instruction's write takes r2 out of the shadow, a write elsewhere does not. -/
theorem test_load_slots_two :
    ((nextOf ({ State.reset with loadShadow := [some (.gpr 2)], params := { loadSlots := 2 } }.runWord
        0xE0040001#32)).map fun t => t.loadShadow) = some [none, none] ∧
    ((nextOf ({ State.reset with loadShadow := [some (.gpr 2)], params := { loadSlots := 2 } }.runWord
        0xE0060001#32)).map fun t => t.loadShadow) = some [none, some (.gpr 2)] := by decide

/-! Branches (section 2.2): the branch at A has A + 2 in the last queue entry; the target is A + 2 + Disp. -/

theorem test_step_beq_taken :
    queueAfter (queueAt 0x100 false (regs [(1, 5), (2, 5)])) 0x08440008#32 = some (0x10A#32, false, false) := by decide
theorem test_step_beqsq_not_taken :
    queueAfter (queueAt 0x100 false (regs [(1, 5), (2, 6)])) 0x08450008#32 = some (0x103#32, true, true) := by decide
theorem test_step_bge_signed :
    queueAfter (queueAt 0x200 false (regs [(4, 0xFFFFFFFF#32)])) 0x39000000#32 = some (0x203#32, false, false) := by
  decide
theorem test_step_bgesq_taken :
    queueAfter (queueAt 0x200 false (regs [(4, 1#32)])) 0x39010000#32 = some (0x202#32, false, false) := by decide
theorem test_step_bhs_far :
    queueAfter (queueAt 0x10 false (regs [(7, 0x80000000#32), (8, 1)])) 0x11D07FFF#32 =
      some (0x8011#32, false, false) := by decide
theorem test_step_bhssq_not_taken :
    queueAfter (queueAt 0x102 false (regs [(2, 1), (6, 0x80000000#32)])) 0x108D0001#32 =
      some (0x105#32, true, true) := by decide
theorem test_step_blo_taken :
    queueAfter (queueAt 0x300 false (regs [(5, 1), (6, 0x80000000#32)])) 0x314CFFFE#32 =
      some (0x300#32, false, false) := by decide
theorem test_step_blosq_not_taken :
    queueAfter (queueAt 0x300 false (regs [(5, 7), (6, 7)])) 0x314DFFFE#32 = some (0x303#32, true, true) := by decide
theorem test_step_blt_overflowing :
    queueAfter (queueAt 0x9000 false (regs [(9, 0x80000000#32), (10, 1)])) 0x1A548000#32 =
      some (0x1002#32, false, false) := by decide
theorem test_step_bltsq_not_taken :
    queueAfter (queueAt 0x9000 false (regs [(9, 0x7FFFFFFF#32), (10, 0xFFFFFFFF#32)])) 0x1A558000#32 =
      some (0x9003#32, true, true) := by decide
theorem test_step_bne_not_taken :
    queueAfter (queueAt 0x106 false State.reset) 0x28C0FFFB#32 = some (0x109#32, false, false) := by decide
theorem test_step_bnesq_taken :
    queueAfter (queueAt 0x106 false (regs [(3, 1)])) 0x28C1FFFB#32 = some (0x103#32, false, false) := by decide

/-! Compute instructions (section 2.3 and part 1). -/

theorem test_step_add_masked :
    gprAfter (regs [(1, 0x7FFFFFFF#32), (2, 1)]) 0x60443019#32 3 = some 0x80000000#32 := by decide
theorem test_step_add_traps :
    pswAfter (refilled (inPsw 0x80000105#32 (regs [(1, 0x7FFFFFFF#32), (2, 1)]))) 0x60443019#32 =
      some 0x6000015E#32 := by decide
theorem test_step_sub : gprAfter (regs [(1, 5), (2, 7)]) 0x60443066#32 3 = some 0xFFFFFFFE#32 := by decide
theorem test_step_subnc : gprAfter (regs [(1, 5), (2, 7)]) 0x60443026#32 3 = some 0xFFFFFFFD#32 := by decide
theorem test_step_and :
    gprAfter (regs [(1, 0xFF00FF00#32), (2, 0x0FF00FF0#32)]) 0x60443023#32 3 = some 0x0F000F00#32 := by decide
theorem test_step_bic :
    gprAfter (regs [(1, 0xFF00FF00#32), (2, 0x0FF00FF0#32)]) 0x6044300B#32 3 = some 0x00F000F0#32 := by decide
theorem test_step_not : gprAfter (regs [(1, 0xFF00FF00#32)]) 0x6040300F#32 3 = some 0x00FF00FF#32 := by decide
theorem test_step_or :
    gprAfter (regs [(1, 0xFF00FF00#32), (2, 0x0FF00FF0#32)]) 0x6044303B#32 3 = some 0xFFF0FFF0#32 := by decide
theorem test_step_xor :
    gprAfter (regs [(1, 0xFF00FF00#32), (2, 0x0FF00FF0#32)]) 0x6044301B#32 3 = some 0xF0F0F0F0#32 := by decide
theorem test_step_mov : gprAfter (regs [(1, 0x80000000#32)]) 0x60403019#32 3 = some 0x80000000#32 := by decide
theorem test_step_nop :
    queueAfter (queueAt 0x100 false State.reset) 0x60000019#32 = some (0x103#32, false, false) := by decide
theorem test_step_asr_1 : gprAfter (regs [(1, 0x80000001#32)]) 0x48403178#32 3 = some 0xC0000000#32 := by decide
theorem test_step_asr_32 : gprAfter (regs [(1, 0x7FFFFFFF#32)]) 0x48403101#32 3 = some 0 := by decide
/-- Section 1.2, the row for 4: field 1110001. -/
theorem test_step_sh_4 :
    gprAfter (regs [(1, 0x89ABCDEF#32), (2, 0x12345670#32)]) 0x48443271#32 3 = some 0x089ABCDE#32 := by decide
theorem test_step_sh_32 :
    gprAfter (regs [(1, 0x11111111#32), (2, 0x22222222#32)]) 0x48443201#32 3 = some 0x22222222#32 := by decide
theorem test_step_rotlb :
    gprAfter (regs [(1, 0xAB01CD23#32), (2, 0x51#32)]) 0x484430C0#32 3 = some 0x01CD23AB#32 := by decide
theorem test_step_rotlcb :
    gprAfter (regs [(1, 0xAB01CD23#32), (2, 0x51#32)]) 0x48443080#32 3 = some 0xCD23AB01#32 := by decide
theorem test_step_mstart :
    gprAfter { regs [(2, 5)] with md := 0x80000000#32 } 0x400430E6#32 3 = some 0xFFFFFFFB#32 := by decide
theorem test_step_mstart_md :
    mdAfter { regs [(2, 5)] with md := 0x40000000#32 } 0x400430E6#32 = some 0x80000000#32 := by decide
theorem test_step_mstep :
    gprAfter { regs [(2, 5), (3, 3)] with md := 0x80000000#32 } 0x40C43099#32 3 = some 0xB#32 := by decide
theorem test_step_mstep_top_zero :
    gprAfter { regs [(2, 5), (3, 3)] with md := 0x7FFFFFFF#32 } 0x40C43099#32 3 = some 6 := by decide
theorem test_step_dstep_restores :
    gprAfter { regs [(5, 1), (6, 4)] with md := 0x80000000#32 } 0x414C5166#32 5 = some 3 := by decide
theorem test_step_dstep_quotient_bit :
    mdAfter { regs [(5, 1), (6, 3)] with md := 0x80000000#32 } 0x414C5166#32 = some 1 := by decide

/-! Compute immediate instructions (section 2.4). -/

theorem test_step_addi : gprAfter State.reset 0xE045FFFF#32 2 = some 0xFFFFFFFF#32 := by decide
theorem test_step_addi_most_negative : gprAfter State.reset 0xE0050000#32 2 = some 0xFFFF0000#32 := by decide
theorem test_step_jspci_link :
    gprAfter (queueAt 0x102 false State.reset) 0xC03E0200#32 31 = some 0x105#32 := by decide
theorem test_step_jspci_old_source :
    queueAfter (queueAt 0x10 false (regs [(5, 0x300#32)])) 0xC14BFFFF#32 = some (0x2FF#32, false, false) := by decide
theorem test_step_movfrs_pcm4 :
    gprAfter (frozen 0x104 0x103 0x102 State.reset) 0xD8140004#32 10 = some 0x102#32 := by decide
theorem test_step_movfrs_pcm4_shifts :
    chainAfter ((frozen 0x104 0x103 0x102 State.reset).runWord 0xD8140004#32) =
      some (0xC1#32, 0x104#32, 0x103#32) := by decide
theorem test_step_movtos_psw : pswAfter (regs [(4, 0xF1#32)]) 0xD1000001#32 = some 0xF1#32 := by decide
theorem test_step_movtos_pcm1 :
    chainAfter ((frozen 0xB 0xC 0xD (regs [(10, 0x102#32)])).runWord 0xD2800004#32) =
      some (0x102#32, 0xB#32, 0xC#32) := by decide
theorem test_step_jpc_shifts :
    chainAfter ((frozen 0x103 0x102 0x101 State.reset).runWord 0xE8000003#32) =
      some (0xC1#32, 0x103#32, 0x102#32) := by decide
theorem test_step_jpc_target :
    queueAfter (frozen 0x103 0x102 0x101 State.reset) 0xE8000003#32 = some (0x101#32, false, false) := by decide
/-- Section 2.7: `jpcrs` with PSW = 0x400001DA gives 0xC00001CF. -/
theorem test_step_jpcrs :
    pswAfter (frozen 0x103 0x102 0x101 (inPsw 0x400001DA#32 State.reset)) 0xF8000003#32 = some 0xC00001CF#32 := by decide
/-- Section 2.7, the rows for `trap 5` and `trap 255`. -/
theorem test_step_trap_5 :
    ((nextOf ((refilled (inPsw 0x80000105#32 State.reset)).runWord 0xF00007D3#32)).map fun t =>
      (pswWord {} t.psw 0, t.pc.addr)) = some (0x4000015E#32, 40#32) := by decide
theorem test_step_trap_255 :
    ((nextOf ((frozen 1 2 3 (inPsw 0x150#32 State.reset)).runWord 0xF0000003#32)).map fun t =>
      (pswWord {} t.psw 0, t.pc.addr)) = some (0xF4#32, 2040#32) := by decide
theorem test_step_hsc_stops : faultOf (State.reset.runWord 0xCFC00000#32) = some (.reserved .opUnused) := by decide
/-- Section 2.7, the first row: an interrupt in user state. -/
theorem test_step_interrupt :
    ((nextOf (step { refilled (queueAt 0x101 true (inPsw 0x80000145#32 State.reset)) with irq := [true] })).map fun t =>
      (pswWord {} t.psw 0, t.pc.addr, t.chain.c2, t.chain.c3, t.chain.c4)) =
      some (0x400001DA#32, 0#32, 0x103#32, 0x102#32, 0x101#32) := by decide

/-! Floating point (rules R254 to R264): 2.0 and 0.5 and what exact arithmetic makes of them. -/

theorem test_step_fadd :
    fprAfter ((State.reset.writeFpr 1 0x40000000#32).writeFpr 2 0x3F000000#32) 0xA8000012#32 2 =
      some 0x40200000#32 := by decide
theorem test_step_fsub :
    fprAfter ((State.reset.writeFpr 1 0x40000000#32).writeFpr 2 0x3F000000#32) 0xA8000112#32 2 =
      some 0x3FC00000#32 := by decide
theorem test_step_fmul :
    fprAfter ((State.reset.writeFpr 1 0x40000000#32).writeFpr 2 0xBF000000#32) 0xA8000212#32 2 =
      some 0xBF800000#32 := by decide
theorem test_step_fdiv :
    fprAfter ((State.reset.writeFpr 1 0x40000000#32).writeFpr 2 0x3F000000#32) 0xA8000312#32 2 =
      some 0x40800000#32 := by decide
theorem test_step_cvtif : fprAfter (State.reset.writeFpr 1 3#32) 0xA8000412#32 2 = some 0x40400000#32 := by decide
theorem test_step_cvtfi : fprAfter (State.reset.writeFpr 1 0x40400000#32) 0xA8000512#32 2 = some 3#32 := by decide
theorem test_step_imul :
    fprAfter ((State.reset.writeFpr 1 6#32).writeFpr 2 7#32) 0xA8000612#32 2 = some 42#32 := by decide
theorem test_step_idiv :
    fprAfter ((State.reset.writeFpr 1 42#32).writeFpr 2 7#32) 0xA8000712#32 2 = some 6#32 := by decide
theorem test_step_mod :
    fprAfter ((State.reset.writeFpr 1 45#32).writeFpr 2 7#32) 0xA8000812#32 2 = some 3#32 := by decide
theorem test_step_movif : fprAfter (regs [(7, 0x40490FDB#32)]) 0xB80E0903#32 3 = some 0x40490FDB#32 := by decide
/-- Rule R219: the uses of `sh` in Appendix I and Figure IV-2. -/
theorem test_step_lsr_lsl :
    gprAfter (regs [(3, 0x7778797A#32)]) 0x48C03221#32 3 = some 0x77#32 ∧
      gprAfter (regs [(1, 0x1234#32)]) (encode (lslAsSh 1 1 24)) 1 = some 0x34000000#32 := by decide
theorem test_step_movfi :
    gprAfter (State.reset.writeFpr 3 0x40490FDB#32) 0xA80E0A30#32 7 = some 0x40490FDB#32 := by decide

/-- The host's check: a placed instruction is what the first step after reset runs. -/
theorem test_placed_after_reset :
    ((nextOf (step (State.reset.withFetchWord 32 0xE0020002))).map fun t => t.gpr 1) = some 2#32 := by decide

/-! ## Witnesses: a state and operands that meet the hypotheses of an obligation, clause by clause -/

/-- A step that runs `nop` in system state with everything quiet. -/
def quiet : State := (refilled State.reset).withFetchWord 32 0x60000019

/-- The same in user state. -/
def quietUser : State := (refilled (queueAt 0 true (inPsw 0x80000155#32 State.reset))).withFetchWord 32 0x60000019

/-- A handler with the chain of an interrupt taken in user state. -/
def inHandler : State := frozen 0x103 0x102 0x101 (inPsw 0x400001DA#32 State.reset)

/-- An empty load-slot shadow holds no register. -/
theorem noLoadShadow_of (s : State) (h : s.loadShadow = []) : s.NoLoadShadow := fun l hl => by
  rw [h] at hl
  cases hl

theorem witness_EncodeThenDecode :
    (Instr.sh 4 2 5 1).wf = true ∧ (Instr.sh 4 2 5 32).wf = true ∧ (Instr.movfi 15 31).wf = true := by decide

theorem witness_DecodeThenEncode :
    decode 0x60443019#32 = .ok (.add 1 2 3) ∧
      (decode 0xA0660004#32 = .ok (.ldf 4 1 3) ∧ encode (.ldf 4 1 3) = 0xA0660004#32 &&& ~~~0x00200000#32) ∧
      field 0xBFFFFFFF#32 30 2 = 0b10#2 := by decide

theorem witness_ReservedOpcodesStop :
    (field 0x00000000#32 30 2 = 0b00#2 ∧ field 0x00000000#32 27 3 = 0b000#3) ∧
    (field 0x20000000#32 30 2 = 0b00#2 ∧ field 0x20000000#32 27 3 = 0b100#3) ∧
    (field 0x50000000#32 30 2 = 0b01#2 ∧ field 0x50000000#32 27 3 = 0b010#3) ∧
    (field 0x60000018#32 27 3 = 0b100#3 ∧ field 0x60000018#32 0 12 = 0x018#12) ∧
    (field 0x40000167#32 27 3 = 0b000#3 ∧ field 0x40000167#32 0 12 = 0x167#12) ∧
    (field 0x480000C1#32 27 3 = 0b001#3 ∧ field 0x480000C1#32 7 5 = 0b00001#5 ∧
      field 0x480000C1#32 0 12 = 0x0C1#12) ∧
    (field 0x48000103#32 7 5 = 0b00010#5 ∧ field 0x48000103#32 0 4 = 0b0011#4) ∧
    (field 0xC8000000#32 30 2 = 0b11#2 ∧ field 0xC8000000#32 27 3 = 0b001#3) ∧
    (field 0xD8000003#32 27 3 = 0b011#3 ∧ field 0xD8000003#32 0 3 = 0b011#3) ∧
    field 0xD0000000#32 27 3 = 0b010#3 ∧ field 0xD0000000#32 0 3 = 0b000#3 := by decide

theorem witness_MustBeZeroFieldsStop :
    (field 0x404000E6#32 0 12 = 0x0E6#12 ∧ field 0x404000E6#32 22 5 = 1#5) ∧
    (field 0x6042000F#32 0 12 = 0x00F#12 ∧ field 0x6042000F#32 17 5 = 1#5) ∧
    (field 0x48020101#32 7 5 = 0b00010#5 ∧ field 0x48020101#32 17 5 = 1#5) ∧
    (field 0xE8000002#32 27 3 = 0b101#3 ∧ field 0xE8000002#32 0 27 = 2#27) ∧
    (field 0xFC000003#32 27 3 = 0b111#3 ∧ field 0xFC000003#32 0 27 = 0x4000003#27) ∧
    (field 0xF0000803#32 27 3 = 0b110#3 ∧ field 0xF0000803#32 11 16 = 1#16) ∧
    (field 0xF0000001#32 27 3 = 0b110#3 ∧ field 0xF0000001#32 0 3 = 0b001#3) ∧
    (field 0xD8400001#32 27 3 = 0b011#3 ∧ field 0xD8400001#32 22 5 = 1#5) ∧
    (field 0xD8000009#32 27 3 = 0b011#3 ∧ field 0xD8000009#32 3 14 = 1#14) ∧
    field 0xD0000009#32 27 3 = 0b010#3 ∧ field 0xD0000009#32 3 19 = 1#19 := by decide

/-- A system-state fetch of an instruction, one of a reserved word, and a user-state fetch of PC value 0, whose word is
at byte address 2^31. -/
theorem witness_StepRunsDecodedInstruction :
    (quiet.interruptTaken = false ∧ quiet.pc.squashed = false ∧ quiet.params.fetchMap = .shifted ∧
      quiet.params.userFetchForce = 29 ∧ quiet.pc.user = false ∧ quiet.fetchesStale quiet.fetchNumber = false ∧
      quiet.mixedAccess .cached quiet.fetchNumber = false ∧
      decodeBytes [Memory.read quiet.mem 0, Memory.read quiet.mem 1, Memory.read quiet.mem 2,
        Memory.read quiet.mem 3] = .ok .nop) ∧
    (State.reset.interruptTaken = false ∧ State.reset.pc.squashed = false ∧
      decodeBytes [Memory.read State.reset.mem 0, Memory.read State.reset.mem 1, Memory.read State.reset.mem 2,
        Memory.read State.reset.mem 3] = .error .branchCondUnused) ∧
    (quietUser.interruptTaken = false ∧ quietUser.pc.user = true ∧
      decodeBytes [Memory.read quietUser.mem (2 ^ 31), Memory.read quietUser.mem (2 ^ 31 + 1),
        Memory.read quietUser.mem (2 ^ 31 + 2), Memory.read quietUser.mem (2 ^ 31 + 3)] = .ok .nop) := by decide

/-- The first user-space word, stored to 4 steps ago and flushed by fetches at all 64 cache indices since. -/
def flushed : State :=
  { quietUser with
    storeLog := [{ path := .cached, word := 0x20000000#30, data := 0x60000019#32 }]
    stale := [{ word := 0x20000000#30, age := 4, refilled := (List.finRange 64).map BitVec.ofFin }] }

theorem flushed_refilled (j : BitVec 6) : j ∈ (List.finRange 64).map BitVec.ofFin :=
  List.mem_map.2 ⟨j.toFin, List.mem_finRange _, rfl⟩

/-- A word never stored to; the flushed word of `flushed`, fetched; the same one step too early, and not flushed; a
system-space word that the platform's statement covers; a step that is no exception entry, and one that is. -/
theorem witness_FetchReadsMappedWord :
    (quiet.storeLog = [] ∧ quiet.stale = []) ∧
    ((flushed.fetchNumber = 0x20000000#30 ∧ 2 ^ 31 ≤ wordAddress 0x20000000#30) ∧
      ∀ j, ∃ i ∈ (List.finRange 64).map BitVec.ofFin, Config.cacheBuffer i = Config.cacheBuffer j) ∧
    (flushed.pc.user = true ∧ flushed.params.fetchMap = .shifted ∧ flushed.params.userFetchForce = 29) ∧
    ({ word := 0x20000000#30, age := 3, refilled := [] : StaleWord }.age < 4 ∧
      ∃ j, ∀ i ∈ ([] : List (BitVec 6)), Config.cacheBuffer i ≠ Config.cacheBuffer j) ∧
    wordAddress 0 < 2 ^ 31 ∧ { quiet with params := { fetchCoherent := true } }.params.fetchCoherent = true ∧
    ((nextOf (step quiet)).map fun t => (t.psw.cur.V, t.pc.addr, t.psw.cur.S)) = some (true, 1, true) ∧
    (∀ kind, (quiet.enterException kind).psw.cur.S = false) ∧
    exec (.trap 1) quiet = .next (quiet.enterException (.trap 1)) :=
  ⟨by decide, ⟨by decide, fun j => ⟨j, flushed_refilled j, rfl⟩⟩, by decide,
    ⟨by decide, 0, fun i hi => by cases hi⟩, by decide, by decide, by decide, fun _ => rfl, rfl⟩

/-- The flushed word is fetched as memory has it. -/
theorem test_fetch_after_flush : flushed.fetch = 0x60000019#32 := by
  have hc : coversBuffers ((List.finRange 64).map BitVec.ofFin) = true := by
    simp only [coversBuffers, List.all_eq_true, List.any_eq_true]
    exact fun j _ => ⟨BitVec.ofFin j, flushed_refilled _, by simp⟩
  have hd : StaleWord.displaced { word := 0x20000000#30, age := 4, refilled := (List.finRange 64).map BitVec.ofFin } =
      true := by
    simp only [StaleWord.displaced, hc]
    decide
  have hs : flushed.fetchesStale flushed.fetchNumber = false := by
    simp only [State.fetchesStale, flushed, List.any_cons, List.any_nil, hd]
    simp
  simp only [State.fetch, hs]
  decide

/-- A store makes its word stale, and system-space code fills a buffer four steps later. -/
theorem test_stale_ages :
    ((nextOf ((regs [(1, 0x1000#32)]).runWord 0x90460000#32)).map fun t => t.stale) =
      some [{ word := 0x400#30, age := 1, refilled := [] }] ∧
    ((nextOf ({ State.reset with stale := [{ word := 0x400#30, age := 4, refilled := [] }] }.runWord
      0x60000019#32)).map fun t => t.stale) = some [{ word := 0x400#30, age := 5, refilled := [0] }] := by decide

theorem witness_PlacedInstructionRuns : (Instr.asr 1 3 32).wf = true ∧ Instr.jpcrs.wf = true := by decide

theorem witness_SquashedSlotDoesNothing :
    { quiet with pc := quiet.pc.mark true }.interruptTaken = false ∧
      { quiet with pc := quiet.pc.mark true }.pc.squashed = true := by decide

theorem witness_InterruptComesFirst :
    ({ quietUser with irq := [true], psw := pswOf 0x80000145#32 }.irqNow = true ∧
      (pswOf 0x80000145#32).cur.M = false) ∧
    { quiet with irq := [false] }.irqNow = false ∧
    { quiet with irq := [true] }.irqNow = true ∧ quiet.psw.cur.M = true := by decide

/-- Each of the six reasons a step stops for, at a state that stops for it. -/
theorem witness_OnlyTheseStops :
    faultOf (step State.reset) = some (.reserved .branchCondUnused) ∧
    faultOf (step (State.reset.withFetchWord 32 0xCFC00000)) = some (.reserved .opUnused) ∧
    faultOf (step (State.reset.withFetchWord 32 0xD8140004)) = some .chainShifting ∧
    faultOf (step (State.reset.withFetchWord 32 0xD2800004)) = some .chainShifting ∧
    faultOf (step ({ State.reset with psw := pswOf 0x11#32 }.withFetchWord 32 0xF8000003)) =
      some .returnToFrozenChain ∧
    faultOf (step ({ State.reset with params := { hasFpu := false } }.withFetchWord 32 0xA0460004)) =
      some .noFpu := by decide

theorem witness_OperandsRead :
    (some (.gpr 31) ∉ quiet.loadShadow ∧ quiet.window = .closed) ∧
    some (.gpr 1) ∈ { quiet with loadShadow := [some (.gpr 1)] }.loadShadow ∧
    { quiet with window := .first }.window ≠ .closed ∧ { quiet with window := .second }.window ≠ .closed ∧
    some (.fpr 15) ∉ quiet.loadShadow ∧
    some (.fpr 15) ∈ { quiet with loadShadow := [some (.fpr 15)] }.loadShadow := by decide

theorem witness_EntryWindowCountsDown :
    isNext (step { quietUser with irq := [true], psw := pswOf 0x80000145#32 }) = true ∧
      { quietUser with irq := [true], psw := pswOf 0x80000145#32 }.interruptTaken = true ∧
      isNext (step { quiet with window := .first }) = true ∧ isNext (step quiet) = true ∧
      isNext (exec (.trap 255) { quiet with window := .first }) = true ∧
      isNext (exec (.add 1 2 3) (inPsw 0x80000105#32 (regs [(1, 0x7FFFFFFF#32), (2, 1)]))) = true ∧
      ((nextOf (exec (.add 1 2 3) (inPsw 0x80000105#32 (regs [(1, 0x7FFFFFFF#32), (2, 1)])))).map fun t => t.window) =
        some .first := by decide

theorem witness_FloatLoadStore :
    quiet.params.hasFpu = true ∧ { quiet with params := { hasFpu := false } }.params.hasFpu = false := by decide

/-- The first and the last word of the address space, stored to and loaded from. -/
theorem witness_LoadFindsStore :
    quiet.storeLog = [] ∧
    (∃ c ∈ { quiet with storeLog := [{ path := .through, word := 0, data := 7 }] }.storeLog,
      c.word = 0 ∧ c.path ≠ .cached) ∧
    (∃ c ∈ { quiet with storeLog := [{ path := .cached, word := 0, data := 7 }] }.storeLog,
      c.word = 0 ∧ c.path ≠ .through) ∧
    quiet.params.cacheVisible = .refused ∧
    { quiet with params := { cacheVisible := .platform } }.params.cacheVisible = .platform ∧
    isNext (exec (.stf 0x1FFFF 0 15) quiet) = true ∧
    quiet.dataWord (quiet.effectiveAddress 0 0) = 0 ∧
    quiet.dataWord (quiet.effectiveAddress 0x1FFFF 0) = 0x3FFFFFFF#30 ∧
    isNext (exec (.st 0x1FFFF 0 1) quiet) = true ∧ isNext (exec (.stt 0x1FFFF 0 1) quiet) = true := by decide

/-- A store in user state whose address lies in system space. -/
theorem witness_UserCannotWriteSystemSpace :
    (queueAt 0 true (inPsw 0x80000155#32 (regs [(1, 0x1000#32), (3, 7#32)]))).psw.cur.U = true ∧
      isNext (step ((queueAt 0 true (inPsw 0x80000155#32 (regs [(1, 0x1000#32), (3, 7#32)]))).withFetchWord 32
        0x90460000)) = true := by decide

theorem witness_CoprocessorCycles :
    (quiet.effectiveAddress 0x4000 0).toNat / 2 ^ 14 % 8 = 1 ∧
      (quiet.effectiveAddress 0x1FFFF 0).toNat / 2 ^ 14 % 8 = 7 ∧
      { quiet with params := { hasFpu := false } }.params.hasFpu = false ∧ (7 : Reg) ≠ 0 := by decide

theorem witness_FpuArithmetic :
    quiet.params.hasFpu = true ∧ { quiet with params := { hasFpu := false } }.params.hasFpu = false := by decide

theorem witness_FpuMoves :
    quiet.params.hasFpu = true ∧ { quiet with params := { hasFpu := false } }.params.hasFpu = false ∧
      (31 : Reg) ≠ 0 := by decide

/-- COP# 0 with `fadd`'s function, and with functions that name nothing. -/
theorem witness_FpuReadsAddressAsDriven :
    quiet.params.hasFpu = true ∧
    ((quiet.effectiveAddress 0x0012 0).toNat / 2 ^ 14 % 8 = 0 ∧
      fpOpOfFunc (field (quiet.effectiveAddress 0x0012 0) 8 6) = some .fadd) ∧
    ((quiet.effectiveAddress 0x3FFF 0).toNat / 2 ^ 14 % 8 = 0 ∧
      fpOpOfFunc (field (quiet.effectiveAddress 0x3FFF 0) 8 6) = none) ∧
    (field (quiet.effectiveAddress 0x0903 0) 8 6 = 9#6 ∧ field (quiet.effectiveAddress 0x0903 0) 4 4 = 0#4) ∧
    (field (quiet.effectiveAddress 0x0A30 0) 8 6 = 10#6 ∧ field (quiet.effectiveAddress 0x0A30 0) 0 4 = 0#4) ∧
    (7 : Reg) ≠ 0 := by decide

theorem fpValue_of (w : Word) (q : Rat) (e f : Nat) (hs : w.getLsbD 31 = false) (he : (field w 23 8).toNat = e)
    (hf : (field w 0 23).toNat = f) (h : 1 ≤ e ∧ e ≤ 254)
    (hq : q = 2 ^ ((e : Int) - 127) * (1 + (f : Rat) / 2 ^ 23)) : FpValue w q := by
  refine ⟨he ▸ h.1, he ▸ h.2, ?_⟩
  rw [he, hf, hs, hq]
  norm_num

/-- 1, 2, 3 for the sum and the difference; the largest and the smallest exponent, 2^127 and 2^-126, and their product
and quotient with 2. -/
theorem witness_FpArithmeticExact :
    (FpValue 0x3F800000#32 1 ∧ FpValue 0x40000000#32 2 ∧ FpValue 0x40400000#32 3 ∧ (1 : Rat) + 2 = 3 ∧
      (3 : Rat) - 2 = 1) ∧
    (FpValue 0x7F000000#32 (2 ^ 127) ∧ FpValue 0x00800000#32 (1 / 2 ^ 126) ∧
      (2 ^ 127 : Rat) * (1 / 2 ^ 126) = 2 ∧ (2 : Rat) / 2 = 1) := by
  refine ⟨⟨?_, ?_, ?_, by norm_num, by norm_num⟩, ?_, ?_, by norm_num, by norm_num⟩
  · exact fpValue_of _ _ 127 0 (by decide) (by decide) (by decide) (by decide) (by norm_num)
  · exact fpValue_of _ _ 128 0 (by decide) (by decide) (by decide) (by decide) (by norm_num)
  · exact fpValue_of _ _ 128 0x400000 (by decide) (by decide) (by decide) (by decide) (by norm_num)
  · exact fpValue_of _ _ 254 0 (by decide) (by decide) (by decide) (by decide) (by norm_num)
  · exact fpValue_of _ _ 1 0 (by decide) (by decide) (by decide) (by decide) (by norm_num)

theorem witness_FpConversionRoundTrip :
    (0 < (1#32).toNat ∧ (1#32).toNat < 2 ^ 24) ∧ 0 < (0xFFFFFF#32).toNat ∧ (0xFFFFFF#32).toNat < 2 ^ 24 := by decide

theorem witness_FpIntegerOperations :
    ((0x7FFFFFFF#32).toNat < 2 ^ 31 ∧ (1#32).toNat < 2 ^ 31 ∧ (0x7FFFFFFF#32).toNat * (1#32).toNat < 2 ^ 31) ∧
    ((1#32) ≠ 0 ∧ 0x7FFFFFFF#32 % 1#32 = 0) ∧ (0x7FFFFFFF#32) ≠ 0 := by decide

/-- The largest sum that fits, the smallest that does not, for each masking. -/
theorem witness_ArithmeticOrTrap :
    ((regs [(1, 0x7FFFFFFE#32), (2, 1)]).src1 1).toInt + ((regs [(1, 0x7FFFFFFE#32), (2, 1)]).src2 2).toInt =
      2 ^ 31 - 1 ∧
    ((regs [(1, 0x7FFFFFFF#32), (2, 1)]).src1 1).toInt + ((regs [(1, 0x7FFFFFFF#32), (2, 1)]).src2 2).toInt =
      2 ^ 31 ∧
    (inPsw 0x80000105#32 (regs [(1, 0x7FFFFFFF#32), (2, 1)])).psw.cur.V = false ∧
    State.reset.psw.cur.V = true ∧ State.reset.params.ovfSet.add = true ∧
    { State.reset with params := { ovfSet := { sub := false } } }.params.ovfSet.sub = false := by decide

/-- Overflow traps on, MD[31] = 1. -/
def stepping : State :=
  { inPsw 0x80000105#32 (regs [(1, 0x3FFFFFFF#32), (2, 0x80000000#32), (3, 1), (4, 2)]) with md := 0x80000000#32 }

/-- The same with a platform's `MD_OVF` and an `OVF_SET` without `mstep`. -/
def steppingNarrow : State :=
  { stepping with params := { mdOvf := .platform, ovfSet := { mstep := false } } }

/-- A settled MD, with a trap of `mstart` and of `mstep` by the default; none with PSW.V = 1, for `dstep`, or outside
`OVF_SET` under any predicate. -/
theorem witness_MultiplyDivideSteps :
    (stepping.mdMoved = false ∧ stepping.window ≠ .first) ∧
    stepping.MdTraps .mstart 0 (stepping.src2 2) stepping.md
      (stepping.md.msb = true ∧ stepping.src2 2 = 0x80000000#32) ∧
    stepping.MdTraps .mstep (stepping.src1 1) (stepping.src2 4) stepping.md
      (stepping.md.msb = true ∧ ¬ FitsSigned ((stepping.src1 1 <<< 1).toInt + (stepping.src2 4).toInt)) ∧
    (∀ b md P, ¬ quiet.MdTraps .mstart 0 b md P) ∧ (∀ a b md, ¬ stepping.MdTraps .dstep a b md False) ∧
    (steppingNarrow.mdMoved = false ∧ steppingNarrow.window ≠ .first ∧ steppingNarrow.psw.cur.V = false) ∧
    ∀ a b md P, ¬ steppingNarrow.MdTraps .mstep a b md P :=
  ⟨by decide, ⟨rfl, rfl, fun _ => by decide, fun h => by cases h⟩,
    ⟨rfl, rfl, fun _ => by simp only [FitsSigned]; decide, fun h => by cases h⟩,
    fun _ _ _ h => Bool.noConfusion h.1, fun _ _ _ h => h.2.2.1 rfl, by decide,
    fun _ _ _ _ h => Bool.noConfusion h.2.1⟩

/-- MD[31] = 1 with Src2 = 2^31, where `mstart` overflows; and the sum of an `mstep` at the last value that fits and
one past it. -/
theorem witness_MultiplyDivideOverflow :
    (stepping.mdMoved = false ∧ stepping.window ≠ .first ∧ stepping.psw.cur.V = false ∧
      stepping.params.mdOvf = .adder ∧ stepping.params.ovfSet = {}) ∧
    (stepping.md.msb = true ∧ stepping.src2 2 = 0x80000000#32 ∧ stepping.src2 3 ≠ 0x80000000#32) ∧
    (stepping.src1 1 <<< 1).toInt + (stepping.src2 3).toInt = 2 ^ 31 - 1 ∧
    (stepping.src1 1 <<< 1).toInt + (stepping.src2 4).toInt = 2 ^ 31 ∧
    { stepping with md := 0x7FFFFFFF#32 }.md.msb = false := by decide

theorem witness_UnsettledMdGivesDraws :
    ({ stepping with mdMoved := true }.psw.cur.V = false ∧ { stepping with mdMoved := true }.mdMoved = true) ∧
    { quiet with window := .first }.window = .first ∧ isNext (exec (.movtos 1 .md) quiet) = true ∧
    ((nextOf (exec (.movtos 1 .md) quiet)).map fun t => t.window) = some .closed := by decide

theorem witness_MultiplicationRoutine :
    (2 : Reg) ≠ 3 ∧ (3 : Reg) ≠ 0 ∧ quiet.NoLoadShadow ∧ quiet.window = .closed ∧ quiet.mdMoved = false ∧
      quiet.psw.cur.V = true :=
  ⟨by decide, by decide, noLoadShadow_of quiet (by decide), by decide⟩

/-- The largest dividend in MD and the largest divisor in r2. -/
def dividing : State := { regs [(2, 0x7FFFFFFF#32)] with md := 0x7FFFFFFF#32 }

/-- The largest dividend, with the largest divisor and with 0 (in r3). -/
theorem witness_DivisionRoutine :
    dividing.NoLoadShadow ∧
    (dividing.window = .closed ∧ dividing.mdMoved = false ∧
      dividing.psw.cur.V = true ∧ dividing.gpr 1 = 0 ∧ dividing.md.toNat < 2 ^ 31 ∧
      (dividing.gpr 2).toNat < 2 ^ 31 ∧ dividing.gpr 2 ≠ 0 ∧ dividing.gpr 3 = 0) ∧
    (1 : Reg) ≠ 2 ∧ (1 : Reg) ≠ 3 ∧ (1 : Reg) ≠ 0 :=
  ⟨noLoadShadow_of dividing (by decide), by decide⟩

theorem witness_JpcJumpsThroughChain :
    { quiet with k := 2 }.k < 3 ∧ 3 ≤ { quiet with k := 3 }.k := by decide

theorem witness_JpcrsRestoresState :
    (quietUser.psw.cur.U = true ∧ { inHandler with k := 2 }.k < 3 ∧ 3 ≤ { inHandler with k := 3 }.k) ∧
    (inHandler.psw.cur.U = false ∧ inHandler.psw.oth.S = true) ∧
    (pswOf 0x11#32).cur.U = false ∧ (pswOf 0x11#32).oth.S = false := by decide

theorem witness_ReturnSequence :
    inHandler.psw.cur.U = false ∧ inHandler.psw.cur.S = false ∧ inHandler.psw.oth.S = true ∧ inHandler.k = 0 := by
  decide

/-- User code about to be interrupted, its chain refilled just far enough. -/
def interrupted : State :=
  { refilled (queueAt 0x101 true (inPsw 0x80000145#32 State.reset)) with irq := [true], k := 3 }

theorem witness_InterruptThenReturn :
    3 ≤ interrupted.k ∧ interrupted.psw.cur.S = true ∧ interrupted.pc.squashed = false ∧
      interrupted.pc1.squashed = false ∧ interrupted.pc2.squashed = false ∧ interrupted.interruptTaken = true := by
  decide

theorem refilled_chainInvariant (s : State) (h : s.psw.cur.S = true) : (refilled s).ChainInvariant := by
  refine ⟨fun _ => rfl, fun _ => rfl, fun _ => rfl, fun hs => ?_⟩
  exact absurd (hs.symm.trans h) (by decide)

theorem witness_TrapSavesItsPlace :
    ∃ s t, s.ChainInvariant ∧ 3 ≤ s.k ∧ exec (.trap 255) s = .next t :=
  ⟨refilled State.reset, _, refilled_chainInvariant _ rfl, by decide, rfl⟩

theorem witness_MovfrsReads :
    quiet.window ≠ .first ∧ { quiet with window := .first }.window = .first ∧ inHandler.psw.cur.S = false ∧
      quiet.psw.cur.S = true := by decide

theorem witness_MovtosWrites : inHandler.psw.cur.S = false ∧ quiet.psw.cur.S = true := by decide

theorem witness_ThreeChainReads :
    inHandler.psw.cur.S = false ∧ (10 : Reg) ≠ 0 ∧ (11 : Reg) ≠ 0 ∧ (12 : Reg) ≠ 0 ∧ (10 : Reg) ≠ 11 ∧
      (10 : Reg) ≠ 12 ∧ (11 : Reg) ≠ 12 := by decide

theorem witness_ThreeChainWrites :
    inHandler.psw.cur.S = false ∧ inHandler.NoLoadShadow ∧ inHandler.window = .closed :=
  ⟨by decide, noLoadShadow_of inHandler (by decide), by decide⟩

theorem witness_PswFieldsAtPositions :
    State.reset.ParamsLegal ∧ (27 : Fin 32) ∉ State.reset.params.pswLayout.positions ∧
      (9 : Fin 32) ∉ State.reset.params.pswLayout.positions :=
  ⟨⟨by decide, by decide⟩, by decide, by decide⟩

theorem witness_PswWriteThenRead :
    ({} : PswLayout).WellFormed ∧ (0 : Fin 32) ∈ ({} : PswLayout).positions ∧ (0 : Fin 32) ≠ ({} : PswLayout).e ∧
      (31 : Fin 32) ∈ ({} : PswLayout).positions := by decide

theorem witness_ParametersNeverChange : isNext (step quiet) = true := by decide

/-- An exception entry, a `movtos psw`, a `jpcrs` and a `nop`. -/
theorem witness_PswWriters :
    isNext (step (State.reset.withFetchWord 32 0xF00007EB)) = true ∧
      isNext (step (State.reset.withFetchWord 32 0xD1000001)) = true ∧
      isNext (step (State.reset.withFetchWord 32 0xF8000003)) = true ∧ isNext (step quiet) = true := by decide

theorem witness_StepKeepsInvariant : quiet.Inv ∧ isNext (step quiet) = true := by
  refine ⟨⟨?_, ⟨by decide, by decide⟩, ?_, refilled_chainInvariant _ rfl, ?_⟩, by decide⟩
  · show Memory.wf quiet.mem = true
    decide
  · show quiet.x[0] = 0
    decide
  · exact List.nodup_nil

theorem witness_ChainEndIsLastExecuted :
    quiet.ChainInvariant ∧ isNext (step quiet) = true ∧ ((nextOf (step quiet)).map fun t => decide (4 ≤ t.k)) =
      some true :=
  ⟨refilled_chainInvariant _ rfl, by decide, by decide⟩

/-- The amounts at both ends of the range, and a register whose two reads agree. -/
theorem witness_ShiftMnemonics :
    1 ≤ 32 ∧ 0 < 32 ∧ 31 < 32 ∧ quiet.src1 31 = quiet.src2 31 := by decide

end Sys2Proof.Tests
end

/-! What every step leaves of the state, whatever it runs (rule R8): the parameters, and the clock and the
interrupt list one on. -/

namespace Sys2Proof.Machine

/-! ### The own effects of an instruction touch neither the parameters nor the clock nor the interrupt list -/

theorem Effect.params_eq {i : Instr} {s u : State} (h : Effect i s u) : u.params = s.params := by
  rw [h.kept]

theorem Effect.tick_eq {i : Instr} {s u : State} (h : Effect i s u) : u.tick = s.tick := by
  rw [h.kept]

theorem Effect.irq_eq {i : Instr} {s u : State} (h : Effect i s u) : u.irq = s.irq := by
  rw [h.kept]

/-! ### Every step ends in one of two ways -/

/-- A step is an exception entry, or the end of a step over an instruction's own effects; a squashed slot is the latter
with no effects. -/
theorem step_retires_or_enters {s t : State} (h : step s = .next t) :
    (∃ i u a, Effect i s u ∧ t = u.retire a) ∨ ∃ kind, t = s.enterException kind := by
  obtain hint | ⟨-, hskip⟩ | ⟨i, -, hexec⟩ := step_answers s t h
  · exact .inr ⟨.interrupt, hint⟩
  · exact .inl ⟨.nop, s, _, effect_self .nop s, hskip⟩
  · obtain ⟨u, a, heff, ht⟩ | ⟨kind, -, ht⟩ := exec_answers i s t hexec
    · exact .inl ⟨i, u, a, heff, ht⟩
    · exact .inr ⟨kind, ht⟩

/-- Settles O54, by the two ways in which a step ends. -/
theorem parametersNeverChange : Obligations.ParametersNeverChange := by
  intro s t h
  obtain ⟨i, u, a, heff, rfl⟩ | ⟨kind, rfl⟩ := step_retires_or_enters h
  · simp [heff.params_eq, heff.tick_eq, heff.irq_eq]
  · simp

end Sys2Proof.Machine

/-! What every step keeps and what it may change (rules R21, R31, R33, R138, R237): the invariant, and the writers of
the PSW. -/

namespace Sys2Proof.Machine

/-! ### The own effects of an instruction leave the queue and the ghost counter, and keep the invariant's parts -/

section
variable {i : Instr} {s u : State}

theorem Effect.k_eq (h : Effect i s u) : u.k = s.k := by
  rw [h.kept]

theorem Effect.pc1_eq (h : Effect i s u) : u.pc1 = s.pc1 := by
  rw [h.kept]

theorem Effect.pc2_eq (h : Effect i s u) : u.pc2 = s.pc2 := by
  rw [h.kept]

theorem Effect.memoryCanonical (h : Effect i s u) (hs : s.MemoryCanonical) : u.MemoryCanonical := by
  obtain ⟨hmem, -, -⟩ | ⟨p, ea, v, hmem, -, -⟩ := h.mem
  · rw [State.MemoryCanonical, hmem]
    exact hs
  · rw [State.MemoryCanonical, hmem]
    exact Memory.wf_writeWord _ _ _ hs

theorem Effect.staleNodup (h : Effect i s u) (hs : s.StaleNodup) : u.StaleNodup := by
  obtain ⟨-, -, hstale⟩ | ⟨p, ea, v, -, -, hstale⟩ := h.mem
  · rw [State.StaleNodup, hstale]
    exact hs
  · rw [State.StaleNodup, hstale]
    exact noteStale_nodup _ _ hs

theorem Effect.paramsLegal (h : Effect i s u) (hs : s.ParamsLegal) : u.ParamsLegal := by
  rw [State.ParamsLegal, h.params_eq]
  exact hs

/-- A register write leaves the storage behind register 0 (rule R21). -/
theorem zeroRegister_writeGpr (d : Reg) (v : Word) (hs : s.ZeroRegister) : (s.writeGpr d v).ZeroRegister := by
  by_cases hd : d = 0
  · simpa [State.ZeroRegister, State.writeGpr, hd] using hs
  · have hne : d.val ≠ 0 := fun e => hd (Fin.ext e)
    simpa [State.ZeroRegister, State.writeGpr, hd, Vector.getElem_set_ne, hne] using hs

theorem Effect.zeroRegister (h : Effect i s u) (hs : s.ZeroRegister) : u.ZeroRegister := by
  obtain hx | ⟨d, v, hx⟩ := h.x
  · rw [State.ZeroRegister, hx]
    exact hs
  · rw [State.ZeroRegister, hx]
    exact zeroRegister_writeGpr d v hs

/-! ### The two ends of a step and the chain invariant (rule R138) -/

/-- A shifting chain takes the address that enters the queue, so each entry the ghost counter counts moves on with the
queue; a frozen chain sets the counter to 0. An instruction that writes the chain does so under PSW.S = 0. -/
theorem Effect.chainInvariant_retire (h : Effect i s u) (a : After) (hs : s.ChainInvariant) :
    (u.retire a).ChainInvariant := by
  obtain ⟨hc1, hc2, -, -⟩ := hs
  cases hS : u.psw.cur.S with
  | false => simp [State.ChainInvariant, hS]
  | true =>
    have hchain : u.chain = s.chain := h.chain.resolve_right (by simp [hS])
    simpa [State.ChainInvariant, hS, PcChain.shift, hchain, h.k_eq, h.pc1_eq, h.pc2_eq] using ⟨hc1, hc2⟩

end

theorem chainInvariant_enterException (s : State) (kind : Exception) : (s.enterException kind).ChainInvariant := by
  simp [State.ChainInvariant]

theorem staleNodup_retire {u : State} (a : After) (h : u.StaleNodup) : (u.retire a).StaleNodup := by
  rw [State.StaleNodup, State.retire_stale, State.ageStale_words]
  exact h

theorem Effect.inv_retire {i : Instr} {s u : State} (h : Effect i s u) (a : After) (hs : s.Inv) :
    (u.retire a).Inv := by
  obtain ⟨hmem, hparams, hzero, hchain, hstale⟩ := hs
  exact ⟨h.memoryCanonical hmem, h.paramsLegal hparams, h.zeroRegister hzero, h.chainInvariant_retire a hchain,
    staleNodup_retire a (h.staleNodup hstale)⟩

theorem inv_enterException {s : State} (kind : Exception) (hs : s.Inv) : (s.enterException kind).Inv := by
  obtain ⟨hmem, hparams, hzero, -, hstale⟩ := hs
  exact ⟨hmem, hparams, hzero, chainInvariant_enterException s kind, hstale⟩

/-- Settles O56, by the two ways in which a step ends. -/
theorem stepKeepsInvariant : Obligations.StepKeepsInvariant := by
  intro s t hs h
  obtain ⟨i, u, a, heff, rfl⟩ | ⟨kind, rfl⟩ := step_retires_or_enters h
  · exact heff.inv_retire a hs
  · exact inv_enterException kind hs

/-! ### The writers of the PSW (rules R33, R237) -/

/-- Neither `movtos psw` nor `jpcrs` writes `e` (rules R34, R232). -/
theorem Effect.psw_e_eq {i : Instr} {s u : State} (h : Effect i s u) : u.psw.e = s.psw.e := by
  obtain hsame | ⟨-, he, -⟩ := h.psw
  · rw [hsame]
  · exact he

/-- Settles O55, by what a step can do. -/
theorem pswWriters : Obligations.PswWriters := by
  intro s t h
  obtain rfl | ⟨-, rfl⟩ | ⟨i, hdecode, hexec⟩ := step_answers s t h
  · exact .inl ⟨.interrupt, atHandler_enterException s _⟩
  · exact .inr ⟨rfl, .inl rfl⟩
  · obtain ⟨u, a, heff, rfl⟩ | ⟨kind, -, rfl⟩ := exec_answers i s t hexec
    · refine .inr ⟨heff.psw_e_eq, ?_⟩
      obtain hsame | ⟨hsystem, -, hwriter⟩ := heff.psw
      · exact .inl hsame
      · obtain ⟨b, rfl⟩ | rfl := hwriter
        · exact .inr ⟨hsystem, .inl ⟨b, hdecode⟩⟩
        · exact .inr ⟨hsystem, .inr hdecode⟩
    · exact .inl ⟨kind, atHandler_enterException s kind⟩

/-! ### After reset (rule R42) -/

/-- Settles O57: the ghost counter is 0, so nothing is asked of the chain, and the defaults are legal. -/
theorem resetMeetsInvariant : Obligations.ResetMeetsInvariant := by
  refine ⟨rfl, ⟨by decide, by decide⟩, rfl, ?_, List.nodup_nil⟩
  simp [State.ChainInvariant, State.reset]

/-- Settles O59, by the values `State.reset` writes out. -/
theorem resetValues : Obligations.ResetValues :=
  ⟨rfl, rfl, rfl, rfl, rfl, rfl, rfl, rfl, rfl, rfl, rfl, State.gpr_zero _⟩

end Sys2Proof.Machine

/-! The registers that one instruction reads and writes directly: register 0, the three destinations of `movtos`, and
the PSW as a word (rules R21, R31, R33, R34, R141, R235). -/

namespace Sys2Proof.Machine

/-- Settles O12, from what a register write leaves to every read. -/
theorem registerZero : Obligations.RegisterZero := fun s =>
  ⟨s.gpr_zero, s.readGpr_zero .src1, s.readGpr_zero .src2, fun v r => by
    by_cases hr : r = 0 <;> simp [State.gpr_writeGpr, hr]⟩

/-! ### `movtos` (rules R34, R141, R235) -/

/-- The chain after a write of `v` to PC-1: the write enters at PC-2 with the shift, and PC-1 is unspecified (rule
R141). -/
def State.withChainWritten (s : State) (v : Word) : State :=
  { s with chain := { c1 := Config.draw s.tick .c1, c2 := v, c3 := s.chain.c2, c4 := s.chain.c3 } }

theorem exec_movtos_pcm1_frozen (s : State) (a : Reg) (h : s.psw.cur.S = false) :
    exec (.movtos a .pcm1) s = .next (s.withChainWritten (s.src1 a)).retireNext := by
  simp [exec, execMovtos, State.withChainWritten, h]

theorem exec_movtos_pcm1_shifting (s : State) (a : Reg) (h : s.psw.cur.S = true) :
    exec (.movtos a .pcm1) s = .fault .chainShifting := by
  simp [exec, execMovtos, h]

/-- Settles O48: each `movtos` is the end of a step over a state that differs from `s` in one special register. -/
theorem movtosWrites : Obligations.MovtosWrites := by
  intro s a
  refine ⟨⟨_, rfl, rfl, moves_retire s _ _ rfl rfl rfl rfl rfl, fun _ => rfl, rfl, fun _ => rfl, rfl, rfl,
      sameMemory_retire s _ _ rfl rfl rfl, leavesShadow_retire s _ _ none rfl rfl rfl rfl rfl rfl⟩,
    ⟨_, rfl, rfl, moves_retire s _ _ rfl rfl rfl rfl rfl, fun _ => rfl, rfl, fun _ => rfl, rfl, rfl,
      sameMemory_retire s _ _ rfl rfl rfl, leavesShadow_retire s _ _ none rfl rfl rfl rfl rfl rfl⟩,
    fun hS => ⟨_, exec_movtos_pcm1_frozen s a hS, ?_, ?_, ⟨rfl, rfl, rfl⟩, fun _ => rfl,
      ⟨rfl, rfl, fun _ => rfl, rfl, rfl⟩, sameMemory_retire s _ _ rfl rfl rfl,
      leavesShadow_retire s _ _ none rfl rfl rfl rfl rfl rfl⟩,
    exec_movtos_pcm1_shifting s a⟩
  · simp [State.withChainWritten, hS]
  · simp [State.withChainWritten, hS]

/-! ### The PSW as a word (rules R31, R33, R34) -/

/-- The PSW's fields, each with its position, in the order of `PswLayout.positions`. -/
def Psw.fields (p : Psw) (l : PswLayout) : List (Fin 32 × Bool) :=
  [(l.U, p.cur.U), (l.u, p.oth.U), (l.O, p.cur.O), (l.o, p.oth.O), (l.e, p.e), (l.v, p.oth.V), (l.V, p.cur.V),
    (l.m, p.oth.M), (l.M, p.cur.M), (l.i, p.oth.I), (l.I, p.cur.I), (l.s, p.oth.S), (l.S, p.cur.S)]

/-- The field at position `n` of a list of fields, `unused` where no field has that position. -/
def fieldAt (unused : Bool) (n : Fin 32) : List (Fin 32 × Bool) → Bool
  | [] => unused
  | (m, b) :: rest => if n = m then b else fieldAt unused n rest

theorem fieldAt_of_mem {unused b : Bool} {n : Fin 32} {fs : List (Fin 32 × Bool)} (hnodup : (fs.map Prod.fst).Nodup)
    (hmem : (n, b) ∈ fs) : fieldAt unused n fs = b := by
  induction fs with
  | nil => cases hmem
  | cons f rest ih =>
    obtain ⟨hnew, hrest⟩ := List.nodup_cons.1 hnodup
    obtain rfl | hmem := List.mem_cons.1 hmem
    · exact if_pos rfl
    · have hne : n ≠ f.1 := fun e => hnew (e ▸ List.mem_map_of_mem (f := Prod.fst) hmem)
      exact (if_neg hne).trans (ih hrest hmem)

theorem fieldAt_of_notMem {unused : Bool} {n : Fin 32} {fs : List (Fin 32 × Bool)} (h : n ∉ fs.map Prod.fst) :
    fieldAt unused n fs = unused := by
  induction fs with
  | nil => rfl
  | cons f rest ih =>
    obtain ⟨hne, hrest⟩ := not_or.1 (mt List.mem_cons.2 h)
    exact (if_neg hne).trans (ih hrest)

theorem Psw.fields_map_fst (p : Psw) (l : PswLayout) : (p.fields l).map Prod.fst = l.positions := rfl

theorem pswWord_getLsbD (l : PswLayout) (p : Psw) (unused : Word) (n : Fin 32) :
    (pswWord l p unused).getLsbD n = fieldAt (unused.getLsbD n) n (p.fields l) := by
  simp only [pswWord, BitVec.getLsbD_ofFnLE, n.isLt, dite_true]
  rfl

theorem pswWord_getLsbD_field {l : PswLayout} {p : Psw} {n : Fin 32} {b : Bool} (unused : Word) (h : l.WellFormed)
    (hmem : (n, b) ∈ p.fields l) : (pswWord l p unused).getLsbD n = b :=
  (pswWord_getLsbD l p unused n).trans (fieldAt_of_mem h hmem)

theorem pswWord_getLsbD_unused {l : PswLayout} {n : Fin 32} (p : Psw) (unused : Word) (h : n ∉ l.positions) :
    (pswWord l p unused).getLsbD n = unused.getLsbD n :=
  (pswWord_getLsbD l p unused n).trans (fieldAt_of_notMem h)

section
variable {l : PswLayout} (p : Psw) (unused : Word) (h : l.WellFormed)
include h

/-- The positions of PSWcurrent. -/
theorem pswWord_cur :
    (pswWord l p unused).getLsbD l.I = p.cur.I ∧ (pswWord l p unused).getLsbD l.M = p.cur.M ∧
      (pswWord l p unused).getLsbD l.U = p.cur.U ∧ (pswWord l p unused).getLsbD l.S = p.cur.S ∧
      (pswWord l p unused).getLsbD l.V = p.cur.V ∧ (pswWord l p unused).getLsbD l.O = p.cur.O := by
  refine ⟨?_, ?_, ?_, ?_, ?_, ?_⟩ <;> exact pswWord_getLsbD_field unused h (by simp [Psw.fields])

/-- The positions of PSWother. -/
theorem pswWord_oth :
    (pswWord l p unused).getLsbD l.i = p.oth.I ∧ (pswWord l p unused).getLsbD l.m = p.oth.M ∧
      (pswWord l p unused).getLsbD l.u = p.oth.U ∧ (pswWord l p unused).getLsbD l.s = p.oth.S ∧
      (pswWord l p unused).getLsbD l.v = p.oth.V ∧ (pswWord l p unused).getLsbD l.o = p.oth.O := by
  refine ⟨?_, ?_, ?_, ?_, ?_, ?_⟩ <;> exact pswWord_getLsbD_field unused h (by simp [Psw.fields])

theorem pswWord_e : (pswWord l p unused).getLsbD l.e = p.e :=
  pswWord_getLsbD_field unused h (by simp [Psw.fields])

/-- Writing back what was read changes nothing. -/
theorem pswWritten_pswWord : pswWritten l p (pswWord l p unused) = p := by
  obtain ⟨hI, hM, hU, hS, hV, hO⟩ := pswWord_cur p unused h
  obtain ⟨hi, hm, hu, hs, hv, ho⟩ := pswWord_oth p unused h
  simp only [pswWritten, hI, hM, hU, hS, hV, hO, hi, hm, hu, hs, hv, ho]

end

/-- After a write every field but `e` is the bit of the written word at the field's position. -/
theorem fields_pswWritten (l : PswLayout) (p : Psw) (w : Word) :
    ∀ f ∈ (pswWritten l p w).fields l, f.1 ≠ l.e → f.2 = w.getLsbD f.1 := by
  simp [Psw.fields, pswWritten]

/-- Settles O51: in a legal layout a position leads to its own field, and any other bit is the draw's. -/
theorem pswFieldsAtPositions : Obligations.PswFieldsAtPositions := by
  rintro s ⟨-, hlayout⟩
  exact ⟨pswWord_cur _ _ hlayout, pswWord_oth _ _ hlayout, pswWord_e _ _ hlayout,
    fun n hn => pswWord_getLsbD_unused _ _ hn⟩

/-- Settles O52, by the same reading of each position, before and after the write. -/
theorem pswWriteThenRead : Obligations.PswWriteThenRead := by
  intro l p unused w h
  refine ⟨pswWritten_pswWord p unused h, pswWord_e _ unused h, fun n hn hne => ?_⟩
  rw [← Psw.fields_map_fst (pswWritten l p w)] at hn
  obtain ⟨f, hf, rfl⟩ := List.mem_map.1 hn
  calc (pswWord l (pswWritten l p w) unused).getLsbD f.1
      = f.2 := pswWord_getLsbD_field unused h hf
    _ = w.getLsbD f.1 := fields_pswWritten l p w f hf hne

end Sys2Proof.Machine

/-! What the decoder answers is well formed (rules R98, R100, R104, R105), one lemma for each part of the decoder. -/

namespace Sys2Proof

theorem decodeMovfrc_wf (w : Word) : (decodeMovfrc w).wf = true := by
  simp only [decodeMovfrc]
  split
  · split
    · split <;> rfl
    · next hfpu => simpa [Instr.wf, imp_iff_not_or] using hfpu
  · next hd =>
    split
    · simpa [Instr.wf] using hd
    · next hmovfi => simpa [Instr.wf, hd, imp_iff_not_or] using hmovfi

theorem decodeMovtoc_wf (w : Word) : (decodeMovtoc w).wf = true := by
  simp only [decodeMovtoc]
  split
  · rfl
  · next hmovif => simpa [Instr.wf, imp_iff_not_or] using hmovif

theorem decodeMemory_wf (w : Word) : (decodeMemory w).wf = true := by
  simp only [decodeMemory]
  split
  case h_6 => exact decodeMovfrc_wf w
  case h_8 => exact decodeMovtoc_wf w
  all_goals rfl

section
variable {w : Word} {i : Instr}

theorem decodeBranch_wf (h : decodeBranch w = .ok i) : i.wf = true := by
  simp only [decodeBranch] at h
  split at h
  case h_7 => cases h
  all_goals
    cases h
    split <;> rfl

/-- The word of `add` is an `add` only where Src2 is not r0, and a `mov` only where it is no `nop`. -/
theorem decodeAlu_wf (h : decodeAlu w = .ok i) : i.wf = true := by
  simp only [decodeAlu] at h
  split at h
  case h_1 =>
    split at h
    · split at h
      · cases h
        rfl
      · next hnop =>
        cases h
        simpa [Instr.wf, imp_iff_not_or] using hnop
    · next hb =>
      cases h
      simpa [Instr.wf] using hb
  case h_6 =>
    split at h <;> cases h
    rfl
  case h_9 => cases h
  all_goals
    cases h
    rfl

theorem decodeMulDiv_wf (h : decodeMulDiv w = .ok i) : i.wf = true := by
  simp only [decodeMulDiv] at h
  split at h
  case h_2 =>
    split at h <;> cases h
    rfl
  case h_4 => cases h
  all_goals
    cases h
    rfl

theorem decodeShift_wf (h : decodeShift w = .ok i) : i.wf = true := by
  simp only [decodeShift] at h
  split at h
  · split at h
    · split at h
      · next n hn =>
        cases h
        exact (shiftField_of_shiftAmount _ n hn).2
      · cases h
    · cases h
  · split at h
    · next n hn =>
      cases h
      exact (shiftField_of_shiftAmount _ n hn).2
    · cases h
  · split at h <;> cases h <;> rfl
  · cases h

theorem decodeCompute_wf (h : decodeCompute w = .ok i) : i.wf = true := by
  simp only [decodeCompute] at h
  split at h
  · exact decodeMulDiv_wf h
  · exact decodeShift_wf h
  · exact decodeAlu_wf h
  · cases h

theorem decodeMovfrs_wf (h : decodeMovfrs w = .ok i) : i.wf = true := by
  simp only [decodeMovfrs] at h
  split at h
  · split at h <;> cases h <;> rfl
  · cases h

theorem decodeMovtos_wf (h : decodeMovtos w = .ok i) : i.wf = true := by
  simp only [decodeMovtos] at h
  split at h
  · split at h <;> cases h <;> rfl
  · cases h

theorem decodeImmediate_wf (h : decodeImmediate w = .ok i) : i.wf = true := by
  simp only [decodeImmediate] at h
  split at h
  case h_1 | h_5 =>
    cases h
    rfl
  case h_3 => exact decodeMovtos_wf h
  case h_4 => exact decodeMovfrs_wf h
  all_goals
    split at h <;> cases h
    rfl

/-- What the decoder answers is well formed (rule R104). -/
theorem decode_wf (h : decode w = .ok i) : i.wf = true := by
  simp only [decode] at h
  split at h
  · exact decodeBranch_wf h
  · exact decodeCompute_wf h
  · cases h
    exact decodeMemory_wf w
  · exact decodeImmediate_wf h

end

end Sys2Proof

/-! Memory: what an address leads to, what a load and a fetch find, how the stale words age, and that user state writes
no system space (rules R62 to R67, R71, R72, R75 to R79, R106, R330). -/

namespace Sys2Proof.Machine

/-! ### System space is out of reach of user state (rules R64, R65, R330) -/

theorem userSpace_dataWord {s : State} (hU : s.psw.cur.U = true) (ea : Word) :
    2 ^ 31 ≤ wordAddress (s.dataWord ea) := by
  rw [wordAddress_dataWord, forceUser_toNat, if_pos hU]
  omega

/-- Memory after an instruction's own effects is as before, or a store has gone to a data access's word, which in user
state lies above system space. -/
theorem Effect.read_systemSpace {i : Instr} {s u : State} (h : Effect i s u) (hU : s.psw.cur.U = true) {a : Nat}
    (ha : a < 2 ^ 31) : Memory.read u.mem a = Memory.read s.mem a := by
  obtain ⟨hmem, -, -⟩ | ⟨p, ea, v, hmem, -, -⟩ := h.mem
  · rw [hmem]
  · rw [hmem, State.storeWord_mem]
    exact Memory.read_writeWord_outside _ _ _ _ (.inl (ha.trans_le (userSpace_dataWord hU ea)))

/-- Settles O20, by the two ways in which a step ends, neither of which writes memory itself. -/
theorem userCannotWriteSystemSpace : Obligations.UserCannotWriteSystemSpace := by
  intro s t hU h a ha
  obtain ⟨i, u, after, heff, rfl⟩ | ⟨kind, rfl⟩ := step_retires_or_enters h
  · rw [State.retire_mem]
    exact heff.read_systemSpace hU ha
  · rw [State.enterException_mem]

/-! ### The address of a data access (rules R62, R63, R65) -/

theorem sext17_toInt (o : BitVec 17) : (sext17 o).toInt = o.toInt :=
  BitVec.toInt_signExtend_of_le (by decide)

/-- Settles O18, from the sign extension's value and the forced address. -/
theorem dataAddress : Obligations.DataAddress := by
  refine ⟨fun s o a => ?_, fun s ea => ?_⟩
  · rw [State.effectiveAddress, BitVec.toInt_add, sext17_toInt]
  · rw [wordAddress_dataWord, forceUser_toNat]

/-! ### What an access finds (rules R66, R75, R76) -/

/-- No store has reached word `w` but by path `p`. -/
def State.OnlyStoredBy (s : State) (p : Path) (w : WordNumber) : Prop := ∀ c ∈ s.storeLog, c.word = w → c.path = p

theorem State.mixedAccess_eq_false {s : State} {p : Path} {w : WordNumber} (h : s.OnlyStoredBy p w) :
    s.mixedAccess p w = false := by
  rw [← Bool.not_eq_true, State.mixedAccess_iff]
  rintro ⟨c, hc, hw, hne⟩
  exact hne (h c hc hw)

theorem State.wordByPath_unmixed {s : State} {p : Path} {w : WordNumber} (d : Draw) (h : s.mixedAccess p w = false) :
    s.wordByPath p d w = Memory.readWord s.mem w := by
  simp [State.wordByPath, h]

theorem State.wordByPath_refused {s : State} {p : Path} {w : WordNumber} (d : Draw) (h : s.mixedAccess p w = true)
    (hvis : s.params.cacheVisible = .refused) : s.wordByPath p d w = Config.draw s.tick d := by
  simp [State.wordByPath, h, hvis]

theorem State.wordByPath_platform {s : State} {p : Path} {w : WordNumber} (d : Draw) (h : s.mixedAccess p w = true)
    (hvis : s.params.cacheVisible = .platform) :
    s.wordByPath p d w = Config.cacheModel s.tick s.storeLog p w (Memory.readWord s.mem w) := by
  simp [State.wordByPath, h, hvis]

/-- A completed store by path `p` is what a load by that path finds afterwards. -/
theorem loadWord_of_writesWord {s t : State} {p : Path} {w : WordNumber} {v : Word} (hs : s.OnlyStoredBy p w)
    (h : WritesWord p w v s t) : t.loadWord p w = v := by
  obtain ⟨hword, -, hlog, -, -⟩ := h
  have ht : t.OnlyStoredBy p w := by
    rw [State.OnlyStoredBy, hlog]
    exact List.forall_mem_cons.2 ⟨fun _ => rfl, hs⟩
  rw [State.loadWord, State.wordByPath_unmixed .load (State.mixedAccess_eq_false ht), hword]

theorem writesWord_storeWord (s : State) (p : Path) (w : WordNumber) (v : Word) :
    WritesWord p w v s (s.storeWord p w v).retireNext :=
  (storeWord_spec p w v s).1

theorem writesWord_of_exec_stf {s t : State} {o : BitVec 17} {a : Reg} {f : FReg}
    (h : exec (.stf o a f) s = .next t) :
    WritesWord .cached (s.dataWord (s.effectiveAddress o a)) (s.readFpr .fsrc2 f) s t := by
  simp only [exec, execStf] at h
  split at h
  · cases h
    exact writesWord_storeWord s _ _ _
  · cases h

/-- Settles O19, from what each path finds and what a store leaves. -/
theorem loadFindsStore : Obligations.LoadFindsStore := by
  intro s w p
  refine ⟨fun h => State.wordByPath_unmixed _ (State.mixedAccess_eq_false h), fun hmixed => ?_, ?_⟩
  · rw [← State.mixedAccess_iff] at hmixed
    exact ⟨State.wordByPath_refused _ hmixed, State.wordByPath_platform _ hmixed⟩
  · rintro o a b f t rfl hs
    refine ⟨?_, ?_, ?_⟩
    · rintro rfl h
      cases h
      exact loadWord_of_writesWord hs (writesWord_storeWord s _ _ _)
    · rintro rfl h
      exact loadWord_of_writesWord hs (writesWord_of_exec_stf h)
    · rintro rfl h
      cases h
      exact loadWord_of_writesWord hs (writesWord_storeWord s _ _ _)

/-! ### Where a fetch goes (rules R71, R72) -/

/-- By the defaults a fetch goes to the PC value shifted left by two, its top bit forced as that of a data address. -/
theorem wordAddress_fetchNumber {s : State} (hmap : s.params.fetchMap = .shifted)
    (hforce : s.params.userFetchForce = 29) :
    wordAddress s.fetchNumber = (forceUser s.pc.user (s.pc.addr <<< 2)).toNat := by
  have hword : ∀ x : Word, wordAddress (field x 0 30) = (x <<< 2).toNat := fun x => by
    simp only [wordAddress, field, BitVec.extractLsb'_toNat, BitVec.toNat_shiftLeft, Nat.shiftRight_zero,
      Nat.shiftLeft_eq]
    omega
  have hshift : forceUserPc 29 s.pc.user s.pc.addr <<< 2 = forceUser s.pc.user (s.pc.addr <<< 2) := by
    cases s.pc.user
    · rfl
    · exact BitVec.shiftLeft_or_distrib _ _ _
  simp only [State.fetchNumber, fetchWordNumber, mapPc, hmap, hforce, hword, hshift]

theorem userSpace_fetchNumber {s : State} (huser : s.pc.user = true) (hmap : s.params.fetchMap = .shifted)
    (hforce : s.params.userFetchForce = 29) : 2 ^ 31 ≤ wordAddress s.fetchNumber := by
  rw [wordAddress_fetchNumber hmap hforce, forceUser_toNat, if_pos huser]
  omega

/-! ### What a fetch finds (rules R76, R78, R79) -/

/-- The record is out of the queue's reach and its older copy gone: the platform says that fetches see stores, or the
word is in user space and every buffer has been filled since. -/
def StaleWord.Gone (e : StaleWord) (p : Params) : Prop :=
  4 ≤ e.age ∧ (p.fetchCoherent = true ∨
    2 ^ 31 ≤ wordAddress e.word ∧ ∀ j, ∃ i ∈ e.refilled, Config.cacheBuffer i = Config.cacheBuffer j)

theorem StaleWord.displaced_iff (e : StaleWord) :
    e.displaced = true ↔ 4 ≤ e.age ∧ 2 ^ 31 ≤ wordAddress e.word ∧
      ∀ j, ∃ i ∈ e.refilled, Config.cacheBuffer i = Config.cacheBuffer j := by
  simp only [StaleWord.displaced, Bool.and_eq_true, userWord_iff, coversBuffers_iff, StaleWord.queueTurned,
    decide_eq_true_eq, and_assoc]

theorem StaleWord.gone_iff (e : StaleWord) (p : Params) :
    e.Gone p ↔ (e.displaced || p.fetchCoherent && e.queueTurned) = true := by
  simp only [Bool.or_eq_true, Bool.and_eq_true, StaleWord.displaced_iff, StaleWord.queueTurned, decide_eq_true_eq,
    StaleWord.Gone]
  tauto

theorem StaleWord.not_gone_iff (e : StaleWord) (p : Params) :
    ¬ e.Gone p ↔ e.age < 4 ∨ p.fetchCoherent = false ∧ (wordAddress e.word < 2 ^ 31 ∨
      ∃ j, ∀ i ∈ e.refilled, Config.cacheBuffer i ≠ Config.cacheBuffer j) := by
  simp only [StaleWord.Gone, not_and_or, not_or, not_le, Bool.not_eq_true, not_forall, not_exists, imp_iff_not_or,
    ne_eq]

/-- A fetch may find an older copy exactly if a record of its word is not gone. -/
theorem State.fetchesStale_iff (s : State) (w : WordNumber) :
    s.fetchesStale w = true ↔ ∃ e ∈ s.stale, e.word = w ∧ ¬ e.Gone s.params := by
  simp only [State.fetchesStale, List.any_eq_true, StaleWord.gone_iff, Bool.and_eq_true, beq_iff_eq,
    Bool.not_eq_true, Bool.not_eq_true']

theorem State.fetch_fresh {s : State} (hfresh : s.fetchesStale s.fetchNumber = false)
    (hpath : s.mixedAccess .cached s.fetchNumber = false) : s.fetch = Memory.readWord s.mem s.fetchNumber := by
  simp [State.fetch, hfresh, State.wordByPath_unmixed _ hpath]

theorem State.fetch_stale {s : State} (h : s.fetchesStale s.fetchNumber = true) :
    s.fetch = Config.draw s.tick .fetch := by
  simp [State.fetch, h]

/-! ### How the records age (rules R78, R79) -/

/-- An instruction's own effects leave the head of the queue and the parameters, all that the ageing looks at. -/
theorem Effect.ageStale_eq {i : Instr} {s u : State} (h : Effect i s u) : u.ageStale = s.ageStale := by
  rw [h.kept]
  rfl

/-- A record that is new in this step takes no cache index in it. -/
theorem State.ageStale_new (s : State) (w : WordNumber) :
    s.ageStale { word := w, age := 0, refilled := [] } = { word := w, age := 1, refilled := [] } := by
  simp [State.ageStale, StaleWord.queueTurned]

/-- The records at the end of a step that is no exception entry: all one step on, and of a store's word a new one in
place of an older. -/
theorem Effect.stale_retire {i : Instr} {s u : State} (h : Effect i s u) (a : After) :
    ((u.retire a).stale = s.stale.map s.ageStale ∧ (u.retire a).storeLog = s.storeLog) ∨
      ∃ p w v, (u.retire a).storeLog = { path := p, word := w, data := v } :: s.storeLog ∧
        (u.retire a).stale =
          { word := w, age := 1, refilled := [] } :: (s.stale.filter fun e => e.word != w).map s.ageStale := by
  rw [State.retire_stale, State.retire_storeLog, h.ageStale_eq]
  obtain ⟨-, hlog, hstale⟩ | ⟨p, ea, v, -, hlog, hstale⟩ := h.mem
  · exact .inl ⟨by rw [hstale], hlog⟩
  · refine .inr ⟨p, s.dataWord ea, v, hlog, ?_⟩
    rw [hstale, State.storeWord_stale, noteStale, List.map_cons, State.ageStale_new]

/-- Settles O7, from the records a fetch looks at and the two ways in which a step ends. -/
theorem fetchReadsMappedWord : Obligations.FetchReadsMappedWord := by
  intro s
  refine ⟨fun hpath hgone => ?_, fun e he hw hleft => ?_, userSpace_fetchNumber, s.ageStale_spec, fun t h => ?_⟩
  · refine State.fetch_fresh ?_ (State.mixedAccess_eq_false hpath)
    rw [← Bool.not_eq_true, State.fetchesStale_iff]
    rintro ⟨e, he, hw, hleft⟩
    exact hleft (hgone e he hw)
  · exact State.fetch_stale ((s.fetchesStale_iff _).2 ⟨e, he, hw, (e.not_gone_iff _).2 hleft⟩)
  · refine ⟨?_, fun hno => ?_⟩
    · rintro ⟨kind, rfl⟩
      exact ⟨rfl, rfl⟩
    · obtain ⟨i, u, a, heff, rfl⟩ | hentry := step_retires_or_enters h
      · exact heff.stale_retire a
      · exact absurd hentry hno

end Sys2Proof.Machine

/-! From the bytes of memory to the step that runs them (rules R72, R104, R106, R132). -/

namespace Sys2Proof.Machine

theorem decodeBytes_readWord (m : Memory) (w : WordNumber) :
    decodeBytes [Memory.read m (wordAddress w), Memory.read m (wordAddress w + 1), Memory.read m (wordAddress w + 2),
      Memory.read m (wordAddress w + 3)] = decode (Memory.readWord m w) := rfl

theorem step_runs {s : State} (hint : s.interruptTaken = false) (hsq : s.pc.squashed = false) :
    step s = s.runWord s.fetch := by
  simp [step, hint, hsq]

theorem runWord_of_decode {s : State} {w : Word} {i : Instr} (h : decode w = .ok i) : s.runWord w = exec i s := by
  simp [State.runWord, h]

theorem runWord_of_reserved {s : State} {w : Word} {why : Reserved} (h : decode w = .error why) :
    s.runWord w = .fault (.reserved why) := by
  simp [State.runWord, h]

/-- Settles O6: the bytes are those of the word that the fetch finds. -/
theorem stepRunsDecodedInstruction : Obligations.StepRunsDecodedInstruction := by
  intro s a hint hsq hmap hforce ha hfresh hpath
  have haddr : a = wordAddress s.fetchNumber := by
    rw [ha, wordAddress_fetchNumber hmap hforce, forceUser_toNat, BitVec.toNat_shiftLeft, Nat.shiftLeft_eq]
    split <;> omega
  rw [haddr, decodeBytes_readWord, ← State.fetch_fresh hfresh hpath, step_runs hint hsq]
  exact ⟨fun i hi => ⟨runWord_of_decode hi, decode_wf hi⟩, fun why hwhy => runWord_of_reserved hwhy⟩

end Sys2Proof.Machine

/-! The decoder and the encoder are inverse to each other (rules R90 to R100, R104, R105, R114, R252): for each format,
what a packed word decodes to, and which packed word a decoded instruction has. -/

namespace Sys2Proof

/-! ### Fields of fields -/

@[simp] theorem regBits_zero : regBits 0 = 0#5 := rfl

theorem fieldReg_eq_zero (w : Word) (lo : Nat) : fieldReg w lo = 0 ↔ field w lo 5 = 0#5 :=
  (regBits_eq_zero (fieldReg w lo)).symm

/-- What a field holds fixes every field inside it. -/
theorem subfield {w : Word} {lo len : Nat} {n : BitVec len} (h : field w lo len = n) (lo' len' : Nat)
    (hle : lo' + len' ≤ len) : field w (lo + lo') len' = n.extractLsb' lo' len' := by
  rw [← h]
  exact (extractLsb'_extractLsb' w lo len lo' len' hle).symm

/-- A field of the CopI is a field of the word. -/
theorem copI_subfield (w : Word) (lo len : Nat) (hle : lo + len ≤ 17) :
    (field w 0 17).extractLsb' lo len = field w lo len := by
  simpa using (subfield rfl lo len hle : field w (0 + lo) len = (field w 0 17).extractLsb' lo len).symm

/-- Two adjacent fields are one. -/
theorem append_field (w : Word) (lo m n : Nat) : field w (lo + m) n ++ field w lo m = field w lo (n + m) := by
  apply BitVec.eq_of_getLsbD_eq
  intro i hi
  simp only [field, BitVec.getLsbD_append, BitVec.getLsbD_extractLsb']
  grind

/-! ### The four types of word (rule R90) -/

section
variable {w : Word}

/-- A type that is none of the other three. -/
theorem ty_eq_three_of_ne {x : BitVec 2} (h0 : x ≠ 0b00#2) (h1 : x ≠ 0b01#2) (h2 : x ≠ 0b10#2) : x = 0b11#2 := by
  bv_omega

theorem decode_branch (hty : field w 30 2 = 0b00#2) : decode w = decodeBranch w := by
  simp [decode, hty]

theorem decode_compute (hty : field w 30 2 = 0b01#2) : decode w = decodeCompute w := by
  simp [decode, hty]

theorem decode_memory (hty : field w 30 2 = 0b10#2) : decode w = .ok (decodeMemory w) := by
  simp [decode, hty]

theorem decode_immediate (hty : field w 30 2 = 0b11#2) : decode w = decodeImmediate w := by
  simp [decode, hty]

end

section
variable (op : BitVec 3) (s t d : Reg) (r : BitVec 5) (imm : BitVec 17) (sq : BitVec 1) (disp : BitVec 16)
  (func : BitVec 12)

@[simp] theorem decode_packBranch :
    decode (packBranch op s t sq disp) = decodeBranch (packBranch op s t sq disp) :=
  decode_branch (packBranch_ty ..)

@[simp] theorem decode_packCompute :
    decode (packCompute op s t d func) = decodeCompute (packCompute op s t d func) :=
  decode_compute (packCompute_ty ..)

@[simp] theorem decode_packMemory :
    decode (packMemory op s r imm) = .ok (decodeMemory (packMemory op s r imm)) :=
  decode_memory (packMemory_ty ..)

@[simp] theorem decode_packImmediate :
    decode (packImmediate op s d imm) = decodeImmediate (packImmediate op s d imm) :=
  decode_immediate (packImmediate_ty ..)

/-! ### The fields that shape B instructions want zero (rules R95, R110) -/

/-- The field of `movtos` above Spec. -/
theorem packImmediate_destImm :
    field (packImmediate op s d imm) 3 19 = regBits d ++ imm.extractLsb' 3 14 := by
  apply BitVec.eq_of_getLsbD_eq
  intro i hi
  simp only [field, packImmediate, BitVec.getLsbD_extractLsb', BitVec.getLsbD_append]
  grind

/-- The field of `trap` above the vector. -/
theorem packImmediate_regsImm :
    field (packImmediate op s d imm) 11 16 = regBits s ++ regBits d ++ imm.extractLsb' 11 6 := by
  apply BitVec.eq_of_getLsbD_eq
  intro i hi
  simp only [field, packImmediate, BitVec.getLsbD_extractLsb', BitVec.getLsbD_append]
  grind

end

/-! ### The immediate of `trap` (rule R99) -/

section
variable (x : BitVec 8)

theorem trapImm_high : (0#6 ++ x ++ 0b011#3 : BitVec 17).extractLsb' 11 6 = 0#6 := by
  apply BitVec.eq_of_getLsbD_eq
  intro i hi
  simp only [BitVec.getLsbD_extractLsb', BitVec.getLsbD_append]
  grind

theorem trapImm_vector : (0#6 ++ x ++ 0b011#3 : BitVec 17).extractLsb' 3 8 = x := by
  apply BitVec.eq_of_getLsbD_eq
  intro i hi
  simp only [BitVec.getLsbD_extractLsb', BitVec.getLsbD_append]
  grind

theorem trapImm_low : (0#6 ++ x ++ 0b011#3 : BitVec 17).extractLsb' 0 3 = 0b011#3 := by
  apply BitVec.eq_of_getLsbD_eq
  intro i hi
  simp only [BitVec.getLsbD_extractLsb', BitVec.getLsbD_append]
  grind

theorem decode_encode_trap (v : BitVec 8) : decode (encode (.trap v)) = .ok (.trap v) := by
  simp [encode, decodeImmediate, packImmediate_sub, packImmediate_regsImm, trapImm_high, trapImm_vector,
    trapImm_low]

end

/-! ### The CopI words of the FPU (rules R114, R254 to R264) -/

section
variable {w : Word} {func : BitVec 6} {f g : FReg}

theorem copIsFpuCompute_fpuCopI : copIsFpuCompute (fpuCopI func f g) = decide (func.toNat ≤ 8) := by
  simp [copIsFpuCompute]

theorem copIsMovif_fpuCopI : copIsMovif (fpuCopI 9#6 0 f) = true := by
  rw [copIsMovif, fpuCopI_top_cs1]
  rfl

theorem copIsMovfi_fpuCopI : copIsMovfi (fpuCopI 10#6 f 0) = true := by
  rw [copIsMovfi, fpuCopI_top, fpuCopI_cs2]
  rfl

/-- The CopI of a word is that of the FPU which holds its fields, if its COP# is 0. -/
theorem fpuCopI_of_fields (hcop : field w 14 3 = 0#3) (hfunc : field w 8 6 = func) (hcs1 : field w 4 4 = fregBits f)
    (hcs2 : field w 0 4 = fregBits g) : fpuCopI func f g = field w 0 17 := by
  rw [← fpuCopI_fields _ ((copI_subfield w 14 3 (by decide)).trans hcop)]
  simp only [copI_subfield, hfunc, hcs1, hcs2, Nat.reduceAdd, Nat.reduceLeDiff]
  rfl

theorem fpuCopI_of_copIsFpuCompute (h : copIsFpuCompute (field w 0 17) = true) :
    fpuCopI (field w 8 6) (fieldFReg w 4) (fieldFReg w 0) = field w 0 17 ∧ (field w 8 6).toNat ≤ 8 := by
  simp only [copIsFpuCompute, copI_subfield, Nat.reduceAdd, Nat.reduceLeDiff, Bool.and_eq_true, beq_iff_eq,
    decide_eq_true_eq] at h
  obtain ⟨hcop, hfunc⟩ := h
  exact ⟨fpuCopI_of_fields hcop rfl rfl rfl, hfunc⟩

theorem fpuCopI_of_copIsMovif (h : copIsMovif (field w 0 17) = true) :
    fpuCopI 9#6 0 (fieldFReg w 0) = field w 0 17 := by
  simp only [copIsMovif, copI_subfield, Nat.reduceAdd, Nat.reduceLeDiff, beq_iff_eq] at h
  exact fpuCopI_of_fields (subfield h 10 3 (by decide)) (subfield h 4 6 (by decide)) (subfield h 0 4 (by decide)) rfl

theorem fpuCopI_of_copIsMovfi (h : copIsMovfi (field w 0 17) = true) :
    fpuCopI 10#6 (fieldFReg w 4) 0 = field w 0 17 := by
  simp only [copIsMovfi, copI_subfield, Nat.reduceAdd, Nat.reduceLeDiff, Bool.and_eq_true, beq_iff_eq] at h
  obtain ⟨htop, hcs2⟩ := h
  exact fpuCopI_of_fields (subfield htop 6 3 (by decide)) (subfield htop 0 6 (by decide)) rfl hcs2

end

/-! ### From the instruction to its word and back -/

/-- Settles O1, by the fields of each format; the rows that share an opcode are told apart by what `Instr.wf` asks of
the wider one. -/
theorem encodeThenDecode : Obligations.EncodeThenDecode := by
  intro i h
  cases i with
  | ld o s r | ldt o s r | st o s r | stt o s r | ldf o s f | stf o s f =>
    simp [encode, decodeMemory, fieldReg, fieldFReg]
  | movfrc c s d =>
    obtain ⟨hd, hmovfi⟩ : d ≠ 0 ∧ (s = 0 → copIsMovfi c = false) := by simpa [Instr.wf, imp_iff_not_or] using h
    simpa [encode, decodeMemory, decodeMovfrc, fieldReg, hd] using hmovfi
  | movtoc c s t =>
    have hmovif : s = 0 → copIsMovif c = false := by simpa [Instr.wf, imp_iff_not_or] using h
    simpa [encode, decodeMemory, decodeMovtoc, fieldReg] using hmovif
  | aluc c s =>
    have hfpu : ¬ (s = 0 ∧ copIsFpuCompute c = true) := by simpa [Instr.wf, imp_iff_not_or] using h
    simp [encode, decodeMemory, decodeMovfrc, fieldReg, hfpu]
  | beq s t o | beqsq s t o | bge s t o | bgesq s t o | bhs s t o | bhssq s t o | blo s t o | blosq s t o | blt s t o
  | bltsq s t o | bne s t o | bnesq s t o =>
    simp [encode, decodeBranch, fieldReg]
  | add s t d =>
    have ht : t ≠ 0 := by simpa [Instr.wf] using h
    simp [encode, decodeCompute, decodeAlu, fieldReg, ht]
  | mov s d =>
    have hnop : s = 0 → d ≠ 0 := by simpa [Instr.wf, imp_iff_not_or] using h
    simpa [encode, decodeCompute, decodeAlu, fieldReg] using hnop
  | sub s t d | subnc s t d | and s t d | bic s t d | not s d | or s t d | xor s t d =>
    simp [encode, decodeCompute, decodeAlu, fieldReg]
  | dstep s t d | mstart t d | mstep s t d =>
    simp [encode, decodeCompute, decodeMulDiv, fieldReg]
  | asr s d n | sh s t d n =>
    simp [encode, decodeCompute, decodeShift, fieldReg, packCompute_sub, shiftFunc_kind, shiftFunc_field,
      shiftAmount_shiftField n h]
  | rotlb s t d | rotlcb s t d =>
    simp [encode, decodeCompute, decodeShift, fieldReg, packCompute_sub]
  | addi s n d | jspci s n d =>
    simp [encode, decodeImmediate, fieldReg]
  | movfrs r d =>
    cases r <;> simp [encode, specSrcBits, decodeImmediate, decodeMovfrs, fieldReg, packImmediate_sub]
  | movtos s r =>
    cases r <;>
      simp [encode, specDstBits, decodeImmediate, decodeMovtos, fieldReg, packImmediate_sub, packImmediate_destImm]
  | trap v => exact decode_encode_trap v
  | nop | jpc | jpcrs | hsc => decide
  | fadd f g | fsub f g | fmul f g | fdiv f g | cvtif f g | cvtfi f g | imul f g | idiv f g | mod f g =>
    simp [encode, packFpu, decodeMemory, decodeMovfrc, fieldReg, fieldFReg, packMemory_sub, copIsFpuCompute_fpuCopI]
  | movif t f =>
    simp [encode, decodeMemory, decodeMovtoc, fieldReg, fieldFReg, packMemory_sub, copIsMovif_fpuCopI]
  | movfi f d =>
    have hd : d ≠ 0 := by simpa [Instr.wf] using h
    simp [encode, decodeMemory, decodeMovfrc, fieldReg, fieldFReg, packMemory_sub, copIsMovfi_fpuCopI, hd]

/-! ### A word is the pack of its fields (rules R92 to R95) -/

section
variable {w : Word} {i : Instr} {op : BitVec 3} {s t d : Reg}

theorem packMemory_of_fields {r : BitVec 5} {imm : BitVec 17} (hty : field w 30 2 = 0b10#2)
    (hop : field w 27 3 = op) (hs : fieldReg w 22 = s) (hr : field w 17 5 = r) (himm : field w 0 17 = imm) :
    packMemory op s r imm = w := by
  subst hop hs hr himm
  exact packMemory_fields w hty

theorem packBranch_of_fields {sq : BitVec 1} (hty : field w 30 2 = 0b00#2) (hcond : field w 27 3 = op)
    (hsq : field w 16 1 = sq) : packBranch op (fieldReg w 22) (fieldReg w 17) sq (field w 0 16) = w := by
  subst hcond hsq
  exact packBranch_fields w hty

theorem packCompute_of_fields {func : BitVec 12} (hty : field w 30 2 = 0b01#2) (hop : field w 27 3 = op)
    (hs : fieldReg w 22 = s) (ht : fieldReg w 17 = t) (hd : fieldReg w 12 = d) (hfunc : field w 0 12 = func) :
    packCompute op s t d func = w := by
  subst hop hs ht hd hfunc
  exact packCompute_fields w hty

theorem packImmediate_of_fields {imm : BitVec 17} (hty : field w 30 2 = 0b11#2) (hop : field w 27 3 = op)
    (hs : fieldReg w 22 = s) (hd : fieldReg w 17 = d) (himm : field w 0 17 = imm) :
    packImmediate op s d imm = w := by
  subst hop hs hd himm
  exact packImmediate_fields w hty

/-! ### From a word to its instruction and back: branches and compute instructions -/

theorem encode_decodeBranch (hty : field w 30 2 = 0b00#2) (h : decodeBranch w = .ok i) : encode i = w := by
  simp only [decodeBranch] at h
  split at h
  case h_7 => cases h
  all_goals
    next hcond =>
    cases h
    split
    · next hsq => exact packBranch_of_fields hty hcond hsq
    · next hsq => exact packBranch_of_fields hty hcond ((BitVec.eq_zero_or_eq_one _).resolve_left hsq)

theorem encode_decodeMulDiv (hty : field w 30 2 = 0b01#2) (hop : field w 27 3 = 0b000#3)
    (h : decodeMulDiv w = .ok i) : encode i = w := by
  simp only [decodeMulDiv] at h
  split at h
  case h_1 hfunc | h_3 hfunc =>
    cases h
    exact packCompute_of_fields hty hop rfl rfl rfl hfunc
  case h_2 hfunc =>
    split at h <;> cases h
    next hs => exact packCompute_of_fields hty hop hs rfl rfl hfunc
  case h_4 => cases h

theorem encode_decodeAlu (hty : field w 30 2 = 0b01#2) (hop : field w 27 3 = 0b100#3)
    (h : decodeAlu w = .ok i) : encode i = w := by
  simp only [decodeAlu] at h
  split at h
  case h_1 hfunc =>
    split at h
    · next ht =>
      split at h <;> cases h
      · next hsd =>
        simp only [Bool.and_eq_true, decide_eq_true_eq] at hsd
        obtain ⟨hs, hd⟩ := hsd
        exact packCompute_of_fields hty hop hs ht hd hfunc
      · exact packCompute_of_fields hty hop rfl ht rfl hfunc
    · cases h
      exact packCompute_of_fields hty hop rfl rfl rfl hfunc
  case h_6 hfunc =>
    split at h <;> cases h
    next ht => exact packCompute_of_fields hty hop rfl ht rfl hfunc
  case h_9 => cases h
  all_goals
    next hfunc =>
    cases h
    exact packCompute_of_fields hty hop rfl rfl rfl hfunc

/-- The Comp Func of a shifter instruction: its kind and the seven bits below. -/
theorem field_shiftFunc {k : BitVec 5} {f : BitVec 7} (hkind : field w 7 5 = k) (hlow : field w 0 7 = f) :
    field w 0 12 = k ++ f := by
  rw [← hkind, ← hlow]
  exact (append_field w 0 7 5).symm

theorem field_shiftFunc_amount {k : BitVec 5} {n : Nat} (hkind : field w 7 5 = k)
    (hn : shiftAmount (field w 0 7) = some n) : field w 0 12 = k ++ shiftField n :=
  field_shiftFunc hkind (shiftField_of_shiftAmount _ n hn).1.symm

theorem encode_decodeShift (hty : field w 30 2 = 0b01#2) (hop : field w 27 3 = 0b001#3)
    (h : decodeShift w = .ok i) : encode i = w := by
  simp only [decodeShift] at h
  split at h
  case h_1 hkind =>
    split at h
    · next ht =>
      split at h <;> cases h
      next n hn => exact packCompute_of_fields hty hop rfl ht rfl (field_shiftFunc_amount hkind hn)
    · cases h
  case h_2 hkind =>
    split at h <;> cases h
    next n hn => exact packCompute_of_fields hty hop rfl rfl rfl (field_shiftFunc_amount hkind hn)
  case h_3 hkind =>
    split at h <;> cases h
    all_goals
      next hlow => exact packCompute_of_fields hty hop rfl rfl rfl (field_shiftFunc hkind hlow)
  case h_4 => cases h

theorem encode_decodeCompute (hty : field w 30 2 = 0b01#2) (h : decodeCompute w = .ok i) : encode i = w := by
  simp only [decodeCompute] at h
  split at h
  · next hop => exact encode_decodeMulDiv hty hop h
  · next hop => exact encode_decodeShift hty hop h
  · next hop => exact encode_decodeAlu hty hop h
  · cases h

/-! ### From a word to its instruction and back: compute immediate instructions -/

theorem field_specImm {x : BitVec 14} {y : BitVec 3} (hhigh : field w 3 14 = x) (hspec : field w 0 3 = y) :
    field w 0 17 = x ++ y := by
  rw [← hhigh, ← hspec]
  exact (append_field w 0 3 14).symm

theorem encode_decodeMovfrs (hty : field w 30 2 = 0b11#2) (hop : field w 27 3 = 0b011#3)
    (h : decodeMovfrs w = .ok i) : encode i = w := by
  simp only [decodeMovfrs] at h
  split at h
  · next hzero =>
    obtain ⟨hs, hhigh⟩ := hzero
    rw [← fieldReg_eq_zero] at hs
    split at h <;> cases h
    all_goals
      next hspec => exact packImmediate_of_fields hty hop hs rfl (field_specImm hhigh hspec)
  · cases h

theorem encode_decodeMovtos (hty : field w 30 2 = 0b11#2) (hop : field w 27 3 = 0b010#3)
    (h : decodeMovtos w = .ok i) : encode i = w := by
  simp only [decodeMovtos] at h
  split at h
  · next hzero =>
    have hd : fieldReg w 17 = 0 := (fieldReg_eq_zero w 17).2 (subfield hzero 14 5 (by decide))
    have hhigh : field w 3 14 = 0#14 := subfield hzero 0 14 (by decide)
    split at h <;> cases h
    all_goals
      next hspec => exact packImmediate_of_fields hty hop rfl hd (field_specImm hhigh hspec)
  · cases h

/-- The word of `jpc` and `jpcrs` but for the opcode. -/
theorem packImmediate_three (hty : field w 30 2 = 0b11#2) (hop : field w 27 3 = op) (h : field w 0 27 = 3#27) :
    packImmediate op 0 0 3#17 = w :=
  packImmediate_of_fields hty hop ((fieldReg_eq_zero w 22).2 (subfield h 22 5 (by decide)))
    ((fieldReg_eq_zero w 17).2 (subfield h 17 5 (by decide))) (subfield h 0 17 (by decide))

theorem encode_hsc_of_fields (hty : field w 30 2 = 0b11#2) (hop : field w 27 3 = 0b001#3)
    (h : field w 0 27 = 0x7C00000#27) : encode .hsc = w :=
  packImmediate_of_fields hty hop (congrArg BitVec.toFin (subfield h 22 5 (by decide)))
    ((fieldReg_eq_zero w 17).2 (subfield h 17 5 (by decide))) (subfield h 0 17 (by decide))

theorem encode_trap_of_fields (hty : field w 30 2 = 0b11#2) (hop : field w 27 3 = 0b110#3)
    (hhigh : field w 11 16 = 0#16) (hlow : field w 0 3 = 3#3) : encode (.trap (~~~(field w 3 8))) = w := by
  have himm : field w 0 17 = 0#6 ++ field w 3 8 ++ 0b011#3 := by
    have htop : field w 3 14 = 0#6 ++ field w 3 8 := by
      rw [← append_field w 3 8 6, subfield hhigh 0 6 (by decide)]
      rfl
    exact field_specImm htop hlow
  rw [← BitVec.not_not (b := field w 3 8)] at himm
  exact packImmediate_of_fields hty hop ((fieldReg_eq_zero w 22).2 (subfield hhigh 11 5 (by decide)))
    ((fieldReg_eq_zero w 17).2 (subfield hhigh 6 5 (by decide))) himm

/-- An opcode that is none of the other seven. -/
theorem op_eq_seven_of_ne {x : BitVec 3} (h0 : x ≠ 0b000#3) (h1 : x ≠ 0b001#3) (h2 : x ≠ 0b010#3) (h3 : x ≠ 0b011#3)
    (h4 : x ≠ 0b100#3) (h5 : x ≠ 0b101#3) (h6 : x ≠ 0b110#3) : x = 0b111#3 := by
  bv_omega

theorem encode_decodeImmediate (hty : field w 30 2 = 0b11#2) (h : decodeImmediate w = .ok i) : encode i = w := by
  simp only [decodeImmediate] at h
  split at h
  case h_1 hop | h_5 hop =>
    cases h
    exact packImmediate_of_fields hty hop rfl rfl rfl
  case h_2 hop =>
    split at h <;> cases h
    next hfixed => exact encode_hsc_of_fields hty hop hfixed
  case h_3 hop => exact encode_decodeMovtos hty hop h
  case h_4 hop => exact encode_decodeMovfrs hty hop h
  case h_6 hop =>
    split at h <;> cases h
    next hfixed => exact packImmediate_three hty hop hfixed
  case h_7 hop =>
    split at h <;> cases h
    next hfixed =>
      obtain ⟨hhigh, hlow⟩ := hfixed
      exact encode_trap_of_fields hty hop hhigh hlow
  case h_8 h0 h1 h2 h3 h4 h5 h6 =>
    split at h <;> cases h
    next hfixed => exact packImmediate_three hty (op_eq_seven_of_ne h0 h1 h2 h3 h4 h5 h6) hfixed

/-! ### From a word to its instruction and back: memory instructions -/

/-- The last Func of an FPU compute instruction. -/
theorem func_eq_eight_of_ne {x : BitVec 6} (h : x.toNat ≤ 8) (h0 : x ≠ 0#6) (h1 : x ≠ 1#6) (h2 : x ≠ 2#6) (h3 : x ≠ 3#6)
    (h4 : x ≠ 4#6) (h5 : x ≠ 5#6) (h6 : x ≠ 6#6) (h7 : x ≠ 7#6) : x = 8#6 := by
  bv_omega

theorem packFpu_of_fields {func : BitVec 6} (hty : field w 30 2 = 0b10#2) (hop : field w 27 3 = 0b101#3)
    (hs : fieldReg w 22 = 0) (hd : fieldReg w 17 = 0) (hfpu : copIsFpuCompute (field w 0 17) = true)
    (hfunc : field w 8 6 = func) : packFpu func (fieldFReg w 4) (fieldFReg w 0) = w := by
  subst hfunc
  exact packMemory_of_fields hty hop hs ((fieldReg_eq_zero w 17).1 hd) (fpuCopI_of_copIsFpuCompute hfpu).1.symm

theorem encode_decodeMovfrc (hty : field w 30 2 = 0b10#2) (hop : field w 27 3 = 0b101#3) :
    encode (decodeMovfrc w) = w := by
  simp only [decodeMovfrc]
  split
  · next hd =>
    split
    · next hfpu =>
      simp only [Bool.and_eq_true, decide_eq_true_eq] at hfpu
      obtain ⟨hs, hfpu⟩ := hfpu
      split
      case h_9 h0 h1 h2 h3 h4 h5 h6 h7 =>
        have hle := (fpuCopI_of_copIsFpuCompute hfpu).2
        exact packFpu_of_fields hty hop hs hd hfpu (func_eq_eight_of_ne hle h0 h1 h2 h3 h4 h5 h6 h7)
      all_goals
        next hfunc => exact packFpu_of_fields hty hop hs hd hfpu hfunc
    · exact packMemory_of_fields hty hop rfl ((fieldReg_eq_zero w 17).1 hd) rfl
  · split
    · next hmovfi =>
      simp only [Bool.and_eq_true, decide_eq_true_eq] at hmovfi
      obtain ⟨hs, hmovfi⟩ := hmovfi
      exact packMemory_of_fields hty hop hs rfl (fpuCopI_of_copIsMovfi hmovfi).symm
    · exact packMemory_of_fields hty hop rfl rfl rfl

theorem encode_decodeMovtoc (hty : field w 30 2 = 0b10#2) (hop : field w 27 3 = 0b111#3) :
    encode (decodeMovtoc w) = w := by
  simp only [decodeMovtoc]
  split
  · next hmovif =>
    simp only [Bool.and_eq_true, decide_eq_true_eq] at hmovif
    obtain ⟨hs, hmovif⟩ := hmovif
    exact packMemory_of_fields hty hop hs rfl (fpuCopI_of_copIsMovif hmovif).symm
  · exact packMemory_of_fields hty hop rfl rfl rfl

/-- The fields that do not hold w[21] do not see that it is cleared. -/
theorem field_clear21 (lo len : Nat) (h : field (~~~0x00200000#32) lo len = BitVec.allOnes len) :
    field (w &&& ~~~0x00200000#32) lo len = field w lo len := by
  rw [field, BitVec.extractLsb'_and, ← field, ← field, h, BitVec.and_allOnes]

/-- `ldf` and `stf` have the word with w[21] cleared (rule R252). -/
theorem packMemory_freg_of_fields (hty : field w 30 2 = 0b10#2) (hop : field w 27 3 = op) :
    packMemory op (fieldReg w 22) (0#1 ++ fregBits (fieldFReg w 17)) (field w 0 17) = w &&& ~~~0x00200000#32 := by
  have hclear : ∀ r : BitVec 5, r &&& 0b01111#5 = 0#1 ++ r.extractLsb' 0 4 := by decide
  have hreg : field (w &&& ~~~0x00200000#32) 17 5 = 0#1 ++ field w 17 4 := by
    rw [subfield (w := w) (lo := 17) (len := 5) rfl 0 4 (by decide), ← hclear]
    exact BitVec.extractLsb'_and
  exact packMemory_of_fields ((field_clear21 30 2 rfl).trans hty) ((field_clear21 27 3 rfl).trans hop)
    (congrArg BitVec.toFin (field_clear21 22 5 rfl)) hreg (field_clear21 0 17 rfl)

/-- Every word with TY = 10 comes back, but for w[21] where OP is that of `ldf` or `stf`. -/
theorem encode_decodeMemory (hty : field w 30 2 = 0b10#2) :
    encode (decodeMemory w) = w ∨ field w 27 1 = 0#1 ∧ field w 29 1 = 1#1 ∧
      encode (decodeMemory w) = w &&& ~~~0x00200000#32 := by
  simp only [decodeMemory]
  split
  case h_1 hop | h_2 hop | h_3 hop | h_4 hop => exact .inl (packMemory_of_fields hty hop rfl rfl rfl)
  case h_5 hop | h_7 hop =>
    exact .inr ⟨subfield hop 0 1 (by decide), subfield hop 2 1 (by decide), packMemory_freg_of_fields hty hop⟩
  case h_6 hop => exact .inl (encode_decodeMovfrc hty hop)
  case h_8 h0 h1 h2 h3 h4 h5 h6 => exact .inl (encode_decodeMovtoc hty (op_eq_seven_of_ne h0 h1 h2 h3 h4 h5 h6))

end

/-- Settles O2, by the type of the word: each part of the decoder gives back the fields it was read from. -/
theorem decodeThenEncode : Obligations.DecodeThenEncode := by
  refine ⟨fun w i h => ⟨decode_wf h, ?_⟩, fun w hty => ⟨_, decode_memory hty⟩⟩
  simp only [decode] at h
  split at h
  case h_1 hty => exact .inl (encode_decodeBranch hty h)
  case h_2 hty => exact .inl (encode_decodeCompute hty h)
  case h_3 hty =>
    cases h
    exact (encode_decodeMemory hty).imp_right fun hldf => ⟨hty, hldf⟩
  case h_4 h0 h1 h2 =>
    exact .inl (encode_decodeImmediate (ty_eq_three_of_ne h0 h1 h2) h)

end Sys2Proof

/-! The words that have no step, and all the reasons a step can stop (rules R106 to R113, R140, R141, R232, R240, R250,
R300). -/

namespace Sys2Proof

/-! ### What each part of the decoder rejects (rules R107 to R113) -/

section
variable {w : Word}

theorem decodeBranch_unused (h : field w 27 3 = 0b000#3 ∨ field w 27 3 = 0b100#3) :
    decodeBranch w = .error .branchCondUnused := by
  obtain hcond | hcond := h <;> simp [decodeBranch, hcond]

theorem decodeCompute_muldiv (hop : field w 27 3 = 0b000#3) : decodeCompute w = decodeMulDiv w := by
  simp [decodeCompute, hop]

theorem decodeCompute_shift (hop : field w 27 3 = 0b001#3) : decodeCompute w = decodeShift w := by
  simp [decodeCompute, hop]

theorem decodeCompute_alu (hop : field w 27 3 = 0b100#3) : decodeCompute w = decodeAlu w := by
  simp [decodeCompute, hop]

/-- The three hypotheses leave only the decoder's last arm. -/
theorem decodeCompute_unassigned (h0 : field w 27 3 ≠ 0b000#3) (h1 : field w 27 3 ≠ 0b001#3)
    (h4 : field w 27 3 ≠ 0b100#3) : decodeCompute w = .error .computeOpUnassigned := by
  simp only [decodeCompute]

theorem decodeAlu_unassigned
    (h : field w 0 12 ∉ [0x019#12, 0x066#12, 0x026#12, 0x023#12, 0x00B#12, 0x00F#12, 0x03B#12, 0x01B#12]) :
    decodeAlu w = .error .compFuncUnassigned := by
  simp only [List.mem_cons, List.not_mem_nil, or_false, not_or] at h
  simp [decodeAlu, h]

theorem decodeMulDiv_unassigned (h : field w 0 12 ∉ [0x166#12, 0x0E6#12, 0x099#12]) :
    decodeMulDiv w = .error .compFuncUnassigned := by
  simp only [List.mem_cons, List.not_mem_nil, or_false, not_or] at h
  simp [decodeMulDiv, h]

theorem decodeShift_unassigned (hkind : field w 7 5 ∉ [0b00010#5, 0b00100#5])
    (hfunc : field w 0 12 ∉ [0x0C0#12, 0x080#12]) : decodeShift w = .error .compFuncUnassigned := by
  simp only [List.mem_cons, List.not_mem_nil, or_false, not_or] at hkind hfunc
  obtain ⟨hrotlb, hrotlcb⟩ := hfunc
  simp only [decodeShift]
  split
  case h_1 h => exact absurd h hkind.1
  case h_2 h => exact absurd h hkind.2
  case h_3 h =>
    split
    case h_1 hlow => exact absurd (field_shiftFunc h hlow) hrotlb
    case h_2 hlow => exact absurd (field_shiftFunc h hlow) hrotlcb
    case h_3 => rfl
  case h_4 => rfl

theorem shiftAmount_notOneHot {f : BitVec 7}
    (h : f.extractLsb' 0 4 ∉ [0b0001#4, 0b0010#4, 0b0100#4, 0b1000#4]) : shiftAmount f = none := by
  simp only [List.mem_cons, List.not_mem_nil, or_false, not_or] at h
  simp [shiftAmount, oneHotIndex, h]

theorem decodeShift_notOneHot (hkind : field w 7 5 ∈ [0b00010#5, 0b00100#5])
    (hdddd : field w 0 4 ∉ [0b0001#4, 0b0010#4, 0b0100#4, 0b1000#4]) : ∃ why, decodeShift w = .error why := by
  have hamount : shiftAmount (field w 0 7) = none := by
    refine shiftAmount_notOneHot ?_
    rwa [← subfield (w := w) (lo := 0) rfl 0 4 (by decide)]
  simp only [List.mem_cons, List.not_mem_nil, or_false] at hkind
  obtain hasr | hsh := hkind
  · by_cases ht : fieldReg w 17 = 0 <;> simp [decodeShift, hasr, hamount, ht]
  · simp [decodeShift, hsh, hamount]

theorem decodeImmediate_opUnused (hop : field w 27 3 = 0b001#3) :
    decodeImmediate w = .ok .hsc ∨ decodeImmediate w = .error .opUnused := by
  by_cases h : field w 0 27 = 0x7C00000#27 <;> simp [decodeImmediate, hop, h]

theorem decodeImmediate_movtos (hop : field w 27 3 = 0b010#3) : decodeImmediate w = decodeMovtos w := by
  simp [decodeImmediate, hop]

theorem decodeImmediate_movfrs (hop : field w 27 3 = 0b011#3) : decodeImmediate w = decodeMovfrs w := by
  simp [decodeImmediate, hop]

theorem decodeMovtos_unassigned (h : field w 0 3 ∉ [0b001#3, 0b010#3, 0b100#3]) :
    ∃ why, decodeMovtos w = .error why := by
  simp only [List.mem_cons, List.not_mem_nil, or_false, not_or] at h
  by_cases hzero : field w 3 19 = 0#19 <;> simp [decodeMovtos, hzero, h]

theorem decodeMovfrs_unassigned (h : field w 0 3 ∉ [0b001#3, 0b010#3, 0b100#3]) :
    ∃ why, decodeMovfrs w = .error why := by
  simp only [List.mem_cons, List.not_mem_nil, or_false, not_or] at h
  by_cases hzero : field w 22 5 = 0#5 ∧ field w 3 14 = 0#14 <;> simp [decodeMovfrs, hzero, h]

/-! ### The fields that must be zero (rule R110) -/

theorem decodeMulDiv_mustBeZero (hfunc : field w 0 12 = 0x0E6#12) (hs : field w 22 5 ≠ 0#5) :
    decodeMulDiv w = .error .mustBeZero := by
  simp [decodeMulDiv, hfunc, fieldReg_eq_zero, hs]

theorem decodeAlu_mustBeZero (hfunc : field w 0 12 = 0x00F#12) (ht : field w 17 5 ≠ 0#5) :
    decodeAlu w = .error .mustBeZero := by
  simp [decodeAlu, hfunc, fieldReg_eq_zero, ht]

theorem decodeShift_mustBeZero (hkind : field w 7 5 = 0b00010#5) (ht : field w 17 5 ≠ 0#5) :
    decodeShift w = .error .mustBeZero := by
  simp [decodeShift, hkind, fieldReg_eq_zero, ht]

theorem decodeImmediate_jump_mustBeZero (hop : field w 27 3 ∈ [0b101#3, 0b111#3]) (h : field w 0 27 ≠ 3#27) :
    decodeImmediate w = .error .mustBeZero := by
  simp only [List.mem_cons, List.not_mem_nil, or_false] at hop
  obtain hop | hop := hop <;> simp [decodeImmediate, hop, h]

theorem decodeImmediate_trap_mustBeZero (hop : field w 27 3 = 0b110#3)
    (h : field w 11 16 ≠ 0#16 ∨ field w 0 3 ≠ 0b011#3) : decodeImmediate w = .error .mustBeZero := by
  simp only [decodeImmediate, hop, if_neg (not_and_or.2 h)]

theorem decodeMovfrs_mustBeZero (h : field w 22 5 ≠ 0#5 ∨ field w 3 14 ≠ 0#14) :
    decodeMovfrs w = .error .mustBeZero := by
  exact if_neg (not_and_or.2 h)

theorem decodeMovtos_mustBeZero (h : field w 3 19 ≠ 0#19) : decodeMovtos w = .error .mustBeZero := by
  simp [decodeMovtos, h]

end

end Sys2Proof

namespace Sys2Proof.Machine

/-! ### Reserved words stop the step (rule R106) -/

theorem stops_of_reserved {s : State} {w : Word} (h : ∃ why, decode w = .error why) :
    ∃ why, Stops (s.runWord w) (.reserved why) := by
  obtain ⟨why, hwhy⟩ := h
  exact ⟨why, runWord_of_reserved hwhy⟩

/-- A word of the unused opcode stops the step whether it is that of `hsc` or not (rules R111, R240). -/
theorem stops_of_opUnused {s : State} {w : Word} (hty : field w 30 2 = 0b11#2) (hop : field w 27 3 = 0b001#3) :
    Stops (s.runWord w) (.reserved .opUnused) := by
  obtain hhsc | hreserved := decodeImmediate_opUnused hop
  · exact runWord_of_decode ((decode_immediate hty).trans hhsc)
  · exact runWord_of_reserved ((decode_immediate hty).trans hreserved)

/-- Settles O4, clause by clause from what each part of the decoder rejects. -/
theorem reservedOpcodesStop : Obligations.ReservedOpcodesStop := by
  intro w s h
  obtain ⟨hty, hcond⟩ | ⟨hty, h0, h1, h4⟩ | ⟨hty, hop, hfunc⟩ | ⟨hty, hop, hfunc⟩ | ⟨hty, hop, hkind, hfunc⟩ |
    ⟨hty, hop, hkind, hdddd⟩ | ⟨hty, hop⟩ | ⟨hty, hop, hspec⟩ := h
  · exact stops_of_reserved ⟨_, (decode_branch hty).trans (decodeBranch_unused hcond)⟩
  · exact stops_of_reserved ⟨_, (decode_compute hty).trans (decodeCompute_unassigned h0 h1 h4)⟩
  · refine stops_of_reserved ⟨.compFuncUnassigned, ?_⟩
    rw [decode_compute hty, decodeCompute_alu hop, decodeAlu_unassigned hfunc]
  · refine stops_of_reserved ⟨.compFuncUnassigned, ?_⟩
    rw [decode_compute hty, decodeCompute_muldiv hop, decodeMulDiv_unassigned hfunc]
  · refine stops_of_reserved ⟨.compFuncUnassigned, ?_⟩
    rw [decode_compute hty, decodeCompute_shift hop, decodeShift_unassigned hkind hfunc]
  · refine stops_of_reserved ?_
    rw [decode_compute hty, decodeCompute_shift hop]
    exact decodeShift_notOneHot hkind hdddd
  · exact ⟨_, stops_of_opUnused hty hop⟩
  · refine stops_of_reserved ?_
    simp only [List.mem_cons, List.not_mem_nil, or_false] at hop
    rw [decode_immediate hty]
    obtain hop | hop := hop
    · rw [decodeImmediate_movtos hop]
      exact decodeMovtos_unassigned hspec
    · rw [decodeImmediate_movfrs hop]
      exact decodeMovfrs_unassigned hspec

/-- Settles O5, clause by clause from what each part of the decoder rejects. -/
theorem mustBeZeroFieldsStop : Obligations.MustBeZeroFieldsStop := by
  intro w s h
  refine stops_of_reserved ⟨.mustBeZero, ?_⟩
  obtain ⟨hty, hop, hfunc, hs⟩ | ⟨hty, hop, hfunc, ht⟩ | ⟨hty, hop, hkind, ht⟩ | ⟨hty, hop, hfixed⟩ |
    ⟨hty, hop, hfixed⟩ | ⟨hty, hop, hzero⟩ | ⟨hty, hop, hzero⟩ := h
  · rw [decode_compute hty, decodeCompute_muldiv hop, decodeMulDiv_mustBeZero hfunc hs]
  · rw [decode_compute hty, decodeCompute_alu hop, decodeAlu_mustBeZero hfunc ht]
  · rw [decode_compute hty, decodeCompute_shift hop, decodeShift_mustBeZero hkind ht]
  · rw [decode_immediate hty, decodeImmediate_jump_mustBeZero hop hfixed]
  · rw [decode_immediate hty, decodeImmediate_trap_mustBeZero hop hfixed]
  · rw [decode_immediate hty, decodeImmediate_movfrs hop, decodeMovfrs_mustBeZero hzero]
  · rw [decode_immediate hty, decodeImmediate_movtos hop, decodeMovtos_mustBeZero hzero]

/-- Settles O53: the word is read as `hsc`, whose meaning is the stop. -/
theorem hscStops : Obligations.HscStops :=
  ⟨encodeThenDecode .hsc rfl, fun _ => rfl⟩

/-! ### All the reasons a step can stop (rules R140, R141, R232, R240, R250, R300) -/

/-- The instructions that stop, with the state and the reason of each. -/
def Halts (i : Instr) (s : State) (why : Fault) : Prop :=
  (i = .hsc ∧ why = .reserved .opUnused) ∨
  ((∃ d, i = .movfrs .pcm4 d) ∧ s.psw.cur.S = true ∧ why = .chainShifting) ∨
  ((∃ a, i = .movtos a .pcm1) ∧ s.psw.cur.S = true ∧ why = .chainShifting) ∨
  (i = .jpcrs ∧ s.psw.cur.U = false ∧ s.psw.oth.S = false ∧ why = .returnToFrozenChain) ∨
  ((∃ o a d, i = .ldf o a d ∨ i = .stf o a d) ∧ s.params.hasFpu = false ∧ why = .noFpu)

/-- The outcome is a next state, or a stop of `i` in `s`. -/
def NextOrHalts (i : Instr) (s : State) (o : Result) : Prop :=
  (∃ t, o = .next t) ∨ ∃ why, o = .fault why ∧ Halts i s why

section
variable (s : State)

theorem execLdf_nextOrHalts (o : BitVec 17) (a : Reg) (f : FReg) :
    NextOrHalts (.ldf o a f) s (execLdf o a f s) := by
  simp only [execLdf]
  split
  · exact .inl ⟨_, rfl⟩
  · next h => exact .inr ⟨_, rfl, by simp [Halts, h]⟩

theorem execStf_nextOrHalts (o : BitVec 17) (a : Reg) (f : FReg) :
    NextOrHalts (.stf o a f) s (execStf o a f s) := by
  simp only [execStf]
  split
  · exact .inl ⟨_, rfl⟩
  · next h => exact .inr ⟨_, rfl, by simp [Halts, h]⟩

theorem execJpcrs_nextOrHalts : NextOrHalts .jpcrs s (execJpcrs s) := by
  simp only [execJpcrs]
  split
  · exact .inl ⟨_, rfl⟩
  · next hU =>
    split
    · exact .inl ⟨_, rfl⟩
    · next hS => exact .inr ⟨_, rfl, by simp [Halts, hU, hS]⟩

theorem execMovfrs_nextOrHalts (r : SpecSrc) (d : Reg) : NextOrHalts (.movfrs r d) s (execMovfrs r d s) := by
  cases r with
  | psw => exact .inl ⟨_, rfl⟩
  | md => exact .inl ⟨_, rfl⟩
  | pcm4 =>
    simp only [execMovfrs]
    split
    · next hS => exact .inr ⟨_, rfl, by simp [Halts, hS]⟩
    · exact .inl ⟨_, rfl⟩

theorem execMovtos_nextOrHalts (a : Reg) (r : SpecDst) : NextOrHalts (.movtos a r) s (execMovtos a r s) := by
  cases r with
  | psw => exact .inl ⟨_, rfl⟩
  | md => exact .inl ⟨_, rfl⟩
  | pcm1 =>
    simp only [execMovtos]
    split
    · next hS => exact .inr ⟨_, rfl, by simp [Halts, hS]⟩
    · exact .inl ⟨_, rfl⟩

/-- No instruction is refused, and those that stop are the ones above. -/
theorem exec_nextOrHalts (i : Instr) : NextOrHalts i s (exec i s) := by
  cases i with
  | ldf o a f => exact execLdf_nextOrHalts s o a f
  | stf o a f => exact execStf_nextOrHalts s o a f
  | jpcrs => exact execJpcrs_nextOrHalts s
  | movfrs r d => exact execMovfrs_nextOrHalts s r d
  | movtos a r => exact execMovtos_nextOrHalts s a r
  | hsc => exact .inr ⟨_, rfl, .inl ⟨rfl, rfl⟩⟩
  | _ => exact .inl ⟨_, rfl⟩

/-- A step makes a next state, or stops for a reserved word or for the instruction it fetched. -/
theorem step_nextOrHalts :
    (∃ t, step s = .next t) ∨ ∃ why, step s = .fault why ∧
      ((∃ r, decode s.fetch = .error r ∧ why = .reserved r) ∨ ∃ i, decode s.fetch = .ok i ∧ Halts i s why) := by
  simp only [step]
  split
  · exact .inl ⟨_, rfl⟩
  · split
    · exact .inl ⟨_, rfl⟩
    · cases hdecode : decode s.fetch with
      | error r => exact .inr ⟨_, runWord_of_reserved hdecode, .inl ⟨r, rfl, rfl⟩⟩
      | ok i =>
        rw [runWord_of_decode hdecode]
        obtain hnext | ⟨why, hfault, hhalts⟩ := exec_nextOrHalts s i
        · exact .inl hnext
        · exact .inr ⟨why, hfault, .inr ⟨i, rfl, hhalts⟩⟩

end

/-- Settles O11, by what a step can answer. -/
theorem onlyTheseStops : Obligations.OnlyTheseStops := by
  intro s
  obtain ⟨t, hnext⟩ | ⟨why, hfault, hwhy⟩ := step_nextOrHalts s
  · exact ⟨fun r h => by simp [hnext] at h, fun why h => by simp [hnext] at h⟩
  · refine ⟨fun r h => by simp [hfault] at h, fun why' h => ?_⟩
    obtain rfl : why = why' := by simpa [hfault] using h
    obtain hreserved | ⟨i, hdecode, hhalts⟩ := hwhy
    · exact .inl hreserved
    · exact .inr (by simpa [hdecode, Halts] using hhalts)

end Sys2Proof.Machine

/-! Coprocessor cycles that the FPU answers, whatever instruction drives them (rules R114, R166, R250, R266, R352), and
`trap` from its word to its handler (rules R99, R236, R313 to R318). -/

namespace Sys2Proof.Machine

/-! ### A cycle the FPU answers (rules R114, R166) -/

section
variable {s : State} {a : Word}

theorem copCycle_fpu (h : s.fpuAddressed a = true) (kind : CopKind) (data : Word) :
    s.copCycle kind a data = s.fpuCycle kind a data := by
  simp [State.copCycle, h]

theorem fpuCycle_alu_defined {op : FpOp} (h : fpOpOfFunc (field a 8 6) = some op) (data : Word) :
    (s.fpuCycle .alu a data).1 = s.fpuCompute op (fieldFReg a 4) (fieldFReg a 0) := by
  simp [State.fpuCycle, h]

theorem fpuCycle_alu_undefined (h : fpOpOfFunc (field a 8 6) = none) (data : Word) :
    (s.fpuCycle .alu a data).1 = s.fpuUnspecified := by
  simp [State.fpuCycle, h]

theorem fieldFReg_eq_zero (a : Word) (lo : Nat) : fieldFReg a lo = 0 ↔ field a lo 4 = 0#4 :=
  ⟨fun h => congrArg fregBits h, fun h => congrArg BitVec.toFin h⟩

theorem fpuCycle_toCop_movif (h : field a 8 6 = 9#6 ∧ field a 4 4 = 0#4) (data : Word) :
    (s.fpuCycle .toCop a data).1 = s.writeFpr (fieldFReg a 0) data := by
  simp [State.fpuCycle, fieldFReg_eq_zero, h]

theorem fpuCycle_toCop_undefined (h : ¬ (field a 8 6 = 9#6 ∧ field a 4 4 = 0#4)) (data : Word) :
    (s.fpuCycle .toCop a data).1 = s.fpuUnspecified := by
  simp only [State.fpuCycle, fieldFReg_eq_zero, if_neg h]

theorem fpuCycle_fromCop_movfi (h : field a 8 6 = 10#6 ∧ field a 0 4 = 0#4) (data : Word) :
    s.fpuCycle .fromCop a data = (s, s.readFpr .fsrc1 (fieldFReg a 4)) := by
  simp [State.fpuCycle, fieldFReg_eq_zero, h]

theorem fpuCycle_fromCop_undefined (h : ¬ (field a 8 6 = 10#6 ∧ field a 0 4 = 0#4)) (data : Word) :
    (s.fpuCycle .fromCop a data).1 = s.fpuUnspecified := by
  simp only [State.fpuCycle, fieldFReg_eq_zero, if_neg h]

/-! ### The steps made of such a cycle -/

/-- A cycle to the FPU that moves no word to a general register leaves all but the floating point registers. -/
theorem frame_fpuCycle_retireNext (h : s.fpuAddressed a = true) (kind : CopKind) (data : Word) :
    SameGprs s (s.fpuCycle kind a data).1.retireNext ∧ SameProcessor s (s.fpuCycle kind a data).1.retireNext ∧
      SameCops s (s.fpuCycle kind a data).1.retireNext ∧ SameMemory s (s.fpuCycle kind a data).1.retireNext ∧
      GoesOn s (s.fpuCycle kind a data).1.retireNext := by
  obtain ⟨f, shadow, log, e, hlog, -⟩ := copCycle_frame s kind a data
  rw [copCycle_fpu h] at e
  rw [e, hlog h]
  exact ⟨fun _ => rfl, ⟨rfl, rfl, rfl⟩, rfl, sameMemory_retire s _ _ rfl rfl rfl,
    moves_retire s _ _ rfl rfl rfl rfl rfl⟩

/-- A cycle from the FPU writes no register but its own. -/
theorem fpuCycle_fromCop_kept (s : State) (a data : Word) :
    ∃ f, (s.fpuCycle .fromCop a data).1 = { s with f := f } := by
  simp only [State.fpuCycle]
  split
  · exact ⟨s.f, rfl⟩
  · exact fpuUnspecified_eq s

/-- The end of a step that has put a word from the FPU into `d`: all but the floating point registers and `d` are as
before, and `d` enters the load slot (rule R351). -/
theorem frame_fpuCycle_load (s : State) (a data : Word) (d : Reg) (v : Word) {t : State}
    (ht : t = ((s.fpuCycle .fromCop a data).1.writeGpr d v).retire
      { next := s.incrementer, loaded := some (.gpr d) }) :
    SameGprsBut d s t ∧ SameProcessor s t ∧ SameCops s t ∧ SameMemory s t ∧ GoesOn s t ∧
      LeavesShadow (some (.gpr d)) (some (.gpr d)) false s t := by
  obtain ⟨f, e⟩ := fpuCycle_fromCop_kept s a data
  rw [ht, e]
  exact ⟨(writesGpr_writeGpr { s with f := f } d v).2, ⟨rfl, rfl, rfl⟩, rfl, sameMemory_retire s _ _ rfl rfl rfl,
    moves_retire s _ _ rfl rfl rfl rfl rfl, leavesShadow_retire s _ _ (some (.gpr d)) rfl rfl rfl rfl rfl rfl⟩

theorem writesFpr_retireNext (s : State) (f : FReg) (v : Word) :
    WritesFpr f v s (s.writeFpr f v).retireNext ∧
      LeavesShadow none (some (.fpr f)) false s (s.writeFpr f v).retireNext :=
  ⟨writesFpr_writeFpr s f v, leavesShadow_retire s _ _ (some (.fpr f)) rfl rfl rfl rfl rfl rfl⟩

theorem drawsFprs_retireNext (s : State) :
    (∀ f, s.fpuUnspecified.retireNext.fpr f = Config.draw s.tick (.fpu f)) ∧
      LeavesShadow none none false s s.fpuUnspecified.retireNext :=
  ⟨s.fpr_fpuUnspecified, leavesShadow_fpuUnspecified s⟩

end

/-! ### The coprocessor instructions that drive one -/

section
variable {s : State} {c : BitVec 17} {a : Reg}

theorem exec_aluc_fpu (h : s.fpuAddressed (s.effectiveAddress c a) = true) :
    exec (.aluc c a) s = .next (s.fpuCycle .alu (s.effectiveAddress c a) 0).1.retireNext := by
  simp [exec, execAluc, aluCop, copCycle_fpu h]

theorem exec_movtoc_fpu (h : s.fpuAddressed (s.effectiveAddress c a) = true) (b : Reg) :
    exec (.movtoc c a b) s = .next (s.fpuCycle .toCop (s.effectiveAddress c a) (s.src2 b)).1.retireNext := by
  simp [exec, execMovtoc, moveToCop, copCycle_fpu h]

/-- The word a `movfrc` from the FPU puts into Dest: a draw where that is the base register (rule R352). -/
def State.movfrcWord (s : State) (c : BitVec 17) (a d : Reg) : Word :=
  if d = a then Config.draw s.tick .dest else (s.fpuCycle .fromCop (s.effectiveAddress c a) 0).2

theorem exec_movfrc_fpu (h : s.fpuAddressed (s.effectiveAddress c a) = true) {d : Reg} (hd : d ≠ 0) :
    exec (.movfrc c a d) s =
      .next (((s.fpuCycle .fromCop (s.effectiveAddress c a) 0).1.writeGpr d (s.movfrcWord c a d)).retire
        { next := s.incrementer, loaded := some (.gpr d) }) := by
  simp [exec, execMovfrc, moveFromCop, copCycle_fpu h, hd, State.movfrcWord]

/-- With Dest = 0 a `movfrc` makes the cycle of `aluc` (rules R167, R169). -/
theorem exec_movfrc_zero (s : State) (c : BitVec 17) (a : Reg) : exec (.movfrc c a 0) s = exec (.aluc c a) s := rfl

end

/-- Settles O24: by what the FPU does in each kind of cycle with the fields of the address word, and the frame of each
kind. -/
theorem fpuReadsAddressAsDriven : Obligations.FpuReadsAddressAsDriven := by
  intro s c a b hfpu hcop
  have h : s.fpuAddressed (s.effectiveAddress c a) = true := (fpuAddressed_iff s _).2 ⟨hfpu, hcop⟩
  refine ⟨⟨_, exec_aluc_fpu h, ?_, frame_fpuCycle_retireNext h _ _⟩,
    ⟨_, exec_movtoc_fpu h b, ?_, frame_fpuCycle_retireNext h _ _⟩,
    fun hb => ⟨_, exec_movfrc_fpu h hb, ?_, frame_fpuCycle_load s _ _ b _ rfl⟩, exec_movfrc_zero s c a⟩
  · split
    · next op hop =>
      rw [fpuCycle_alu_defined hop]
      exact writesFpr_retireNext s _ _
    · next hop =>
      rw [fpuCycle_alu_undefined hop]
      exact drawsFprs_retireNext s
  · split
    · next hmovif =>
      rw [fpuCycle_toCop_movif hmovif]
      exact writesFpr_retireNext s _ _
    · next hother =>
      rw [fpuCycle_toCop_undefined hother]
      exact drawsFprs_retireNext s
  · split
    · next hmovfi =>
      rw [State.movfrcWord, fpuCycle_fromCop_movfi hmovfi]
      exact ⟨fun _ => rfl, by simp [State.gpr_writeGpr, hb]⟩
    · next hother =>
      rw [fpuCycle_fromCop_undefined hother]
      exact s.fpr_fpuUnspecified

/-! ### `trap` (rules R99, R236, R313 to R318) -/

/-- The handler of `trap` is at eight times the vector. -/
theorem trap_entry_toNat (v : BitVec 8) (n : Nat) (hn : n ≤ 2) :
    ((Exception.trap v).entry + BitVec.ofNat 32 n).toNat = 8 * v.toNat + n := by
  have := v.isLt
  simp only [Exception.entry, BitVec.toNat_add, BitVec.toNat_shiftLeft, BitVec.toNat_setWidth, BitVec.toNat_ofNat,
    Nat.shiftLeft_eq]
  omega

/-- The word of `trap` as the opcode map prints it. -/
theorem encode_trap (v : BitVec 8) :
    encode (.trap v) = 0b11110000000000000000#20 ++ 0#1 ++ ~~~v ++ 0b011#3 := by
  have hfixed : 0b11#2 ++ 0b110#3 ++ regBits 0 ++ regBits 0 ++ 0#6 = 0b11110000000000000000#20 ++ 0#1 := rfl
  rw [← hfixed, encode, packImmediate]
  simp only [BitVec.append_assoc, BitVec.cast_eq]

/-- Settles O45, by the word of the encoder and what an exception entry leaves. -/
theorem trapEntersHandler : Obligations.TrapEntersHandler := by
  intro v
  refine ⟨?_, fun s => ⟨_, rfl, atHandler_enterException s _, ?_, ?_, ?_⟩⟩
  · rw [← encode_trap]
    exact decode_encode_trap v
  · simpa using trap_entry_toNat v 0 (by decide)
  · exact trap_entry_toNat v 1 (by decide)
  · exact trap_entry_toNat v 2 (by decide)

end Sys2Proof.Machine

/-! The sequential execution model: what an operand read gives, the step of a squashed slot and of a placed instruction,
jumps and reads through the chain, the sequences of three that save and restore it, and its end (rules R131 to R143,
R146, R231, R232, R234, R323, R351, R357). -/

namespace Sys2Proof.Machine

/-! ### Operands (rules R143, R351, R357) -/

theorem State.readFpr_eq {s : State} {f : FReg} (d : Draw) (h : some (.fpr f) ∉ s.loadShadow) :
    s.readFpr d f = s.fpr f := by
  simp [State.readFpr, h]

theorem State.readFpr_hazard {s : State} {f : FReg} (d : Draw) (h : some (.fpr f) ∈ s.loadShadow) :
    s.readFpr d f = Config.draw s.tick d := by
  simp [State.readFpr, h]

/-- Settles O13, from what a read gives inside and outside the shadows. -/
theorem operandsRead : Obligations.OperandsRead := fun s =>
  ⟨fun r hl hw => ⟨s.readGpr_eq .src1 r hl hw, s.readGpr_eq .src2 r hl hw⟩,
    fun r hr h => ⟨s.readGpr_hazard .src1 r hr h, s.readGpr_hazard .src2 r hr h⟩,
    fun d _ => State.readFpr_eq d, fun d _ => State.readFpr_hazard d⟩

/-! ### A squashed slot (rules R136, R137) -/

theorem step_squashed {s : State} (hint : s.interruptTaken = false) (hsq : s.pc.squashed = true) :
    step s = .next s.skipSquashed := by
  simp [step, hint, hsq]

/-- Settles O9: the step of a squashed slot is the end of a step with no effects before it. -/
theorem squashedSlotDoesNothing : Obligations.SquashedSlotDoesNothing := fun s hint hsq =>
  ⟨_, step_squashed hint hsq, fun _ => rfl, ⟨rfl, rfl, fun _ => rfl, rfl, rfl⟩, sameMemory_retire s s _ rfl rfl rfl,
    moves_retire s s _ rfl rfl rfl rfl rfl, rfl, rfl, rfl, rfl⟩

/-! ### A placed instruction (rule R132) -/

section
variable (s : State) (w : Word)

theorem withFetchWord_mem : (s.withFetchWord 32 w.toNat).mem = Memory.writeWord s.mem s.fetchNumber w := by
  simp [State.withFetchWord, Nat.mod_eq_of_lt w.isLt]

theorem withFetchWord_interruptTaken : (s.withFetchWord 32 w.toNat).interruptTaken = false :=
  Bool.and_false _

theorem withFetchWord_mixedAccess (p : Path) : (s.withFetchWord 32 w.toNat).mixedAccess p s.fetchNumber = false := by
  apply State.mixedAccess_eq_false
  intro c hc hword
  simp [State.withFetchWord, hword] at hc

theorem withFetchWord_fetchesStale : (s.withFetchWord 32 w.toNat).fetchesStale s.fetchNumber = false := by
  rw [← Bool.not_eq_true, State.fetchesStale_iff]
  rintro ⟨e, he, hword, -⟩
  simp [State.withFetchWord, hword] at he

theorem withFetchWord_readWord :
    Memory.readWord (s.withFetchWord 32 w.toNat).mem s.fetchNumber = w := by
  rw [withFetchWord_mem, Memory.readWord_writeWord_self]

/-- The placed word is the one the next step fetches. -/
theorem withFetchWord_fetch : (s.withFetchWord 32 w.toNat).fetch = w :=
  (State.fetch_fresh (withFetchWord_fetchesStale s w) (withFetchWord_mixedAccess s w .cached)).trans
    (withFetchWord_readWord s w)

end

/-- Settles O8: the next step fetches the placed word, which decodes to the instruction. -/
theorem placedInstructionRuns : Obligations.PlacedInstructionRuns := by
  intro s i hwf
  refine ⟨?_, fun _ => rfl, ⟨rfl, rfl, fun _ => rfl, rfl, rfl⟩, rfl, withFetchWord_readWord s _, fun a ha => ?_⟩
  · rw [step_runs (withFetchWord_interruptTaken s _) rfl, withFetchWord_fetch,
      runWord_of_decode (encodeThenDecode i hwf)]
  · rw [withFetchWord_mem, Memory.read_writeWord_outside _ _ _ _ ha]

/-! ### Jumps through the chain (rules R139, R231, R232) -/

theorem State.chainTarget_frozen {s : State} (h : s.k < 3) : s.chainTarget = s.chain.c4 := by
  simp [State.chainTarget, h]

theorem State.chainTarget_refilled {s : State} (h : 3 ≤ s.k) : s.chainTarget = Config.draw s.tick .next := by
  simp [State.chainTarget, h]

/-- What both jumps leave: `p` is the PSW that the jump sets before its step ends. -/
def State.jumpThroughChain (s : State) (p : Psw) : State :=
  { s with psw := p }.retire { next := s.chainTarget, shiftAnyway := true }

theorem jumpsThroughChain_jump (s : State) (p : Psw) :
    (s.k < 3 → JumpsThroughChain s.chain.c4 s (s.jumpThroughChain p)) ∧
      (3 ≤ s.k → JumpsThroughChain (Config.draw s.tick .next) s (s.jumpThroughChain p)) := by
  have hjump : JumpsThroughChain s.chainTarget s (s.jumpThroughChain p) :=
    jumpsThroughChain_retire s _ _ rfl rfl rfl rfl
  exact ⟨fun h => State.chainTarget_frozen h ▸ hjump, fun h => State.chainTarget_refilled h ▸ hjump⟩

theorem sameMemory_jump (s : State) (p : Psw) : SameMemory s (s.jumpThroughChain p) :=
  sameMemory_retire s _ _ rfl rfl rfl

theorem leavesShadow_jump (s : State) (p : Psw) : LeavesShadow none none false s (s.jumpThroughChain p) :=
  leavesShadow_retire s _ _ none rfl rfl rfl rfl rfl rfl

theorem exec_jpc (s : State) : exec .jpc s = .next (s.jumpThroughChain s.psw) := rfl

/-- Settles O41: `jpc` is the jump that sets the PSW to what it was. -/
theorem jpcJumpsThroughChain : Obligations.JpcJumpsThroughChain := fun s =>
  have ⟨hfrozen, hrefilled⟩ := jumpsThroughChain_jump s s.psw
  ⟨_, exec_jpc s, hfrozen, hrefilled, fun _ => rfl, ⟨rfl, rfl, fun _ => rfl, rfl, rfl⟩, sameMemory_jump s _,
    leavesShadow_jump s _⟩

/-- The PSW after `jpcrs` (rule R232). -/
def State.pswReturned (s : State) : Psw := if s.psw.cur.U then s.psw else { s.psw with cur := s.psw.oth }

theorem exec_jpcrs {s : State} (h : s.psw.cur.U = true ∨ s.psw.oth.S = true) :
    exec .jpcrs s = .next (s.jumpThroughChain s.pswReturned) := by
  cases hU : s.psw.cur.U with
  | true => simp [exec, execJpcrs, State.jumpThroughChain, State.pswReturned, hU]
  | false =>
    have hS : s.psw.oth.S = true := by simpa [hU] using h
    simp [exec, execJpcrs, State.jumpThroughChain, State.pswReturned, Psw.restored, hU, hS]

theorem exec_jpcrs_stops {s : State} (hU : s.psw.cur.U = false) (hS : s.psw.oth.S = false) :
    exec .jpcrs s = .fault .returnToFrozenChain := by
  simp [exec, execJpcrs, hU, hS]

/-- Settles O42: `jpcrs` is the jump that sets the PSW to `State.pswReturned`, where it has a step. -/
theorem jpcrsRestoresState : Obligations.JpcrsRestoresState := fun s =>
  have ⟨hfrozen, hrefilled⟩ := jumpsThroughChain_jump s s.pswReturned
  ⟨fun h => ⟨_, exec_jpcrs h, rfl, hfrozen, hrefilled, fun _ => rfl, rfl, fun _ => rfl, rfl, rfl,
    sameMemory_jump s _, leavesShadow_jump s _⟩, exec_jpcrs_stops⟩

/-! ### Frames one after another -/

section
variable {s t u : State}

theorem SameGprs.trans (h : SameGprs s t) (h' : SameGprs t u) : SameGprs s u := fun r => (h' r).trans (h r)

theorem SameFprs.trans (h : SameFprs s t) (h' : SameFprs t u) : SameFprs s u := fun f => (h' f).trans (h f)

theorem SameMemory.trans (h : SameMemory s t) (h' : SameMemory t u) : SameMemory s u := by
  obtain ⟨hread, hlog, hstale⟩ := h
  obtain ⟨hread', hlog', hstale'⟩ := h'
  exact ⟨fun a => (hread' a).trans (hread a), hlog'.trans hlog, hstale'.trans hstale⟩

theorem KeepsSpecial.trans (h : KeepsSpecial s t) (h' : KeepsSpecial t u) : KeepsSpecial s u := by
  obtain ⟨hpsw, hmd, hfprs, hcops, hparams⟩ := h
  obtain ⟨hpsw', hmd', hfprs', hcops', hparams'⟩ := h'
  exact ⟨Eq.trans hpsw' hpsw, Eq.trans hmd' hmd, hfprs.trans hfprs', Eq.trans hcops' hcops,
    Eq.trans hparams' hparams⟩

end

/-! ### Instructions one after another -/

section
variable {P Q : State → Prop} {s : State}

theorem completes_execAll_nil (h : Q s) : Completes (execAll [] s) Q := ⟨s, rfl, h⟩

theorem completes_execAll_cons {i : Instr} {rest : List Instr} (h : Completes (exec i s) P)
    (hrest : ∀ u, P u → Completes (execAll rest u) Q) : Completes (execAll (i :: rest) s) Q := by
  obtain ⟨u, hu, hP⟩ := h
  obtain ⟨t, ht, hQ⟩ := hrest u hP
  exact ⟨t, by rw [execAll, hu]; exact ht, hQ⟩

end

/-! ### The return sequence (rules R146, R323) -/

/-- What a jump to `next` does under PSW `p` with PSW.S = 1: the queue and the chain both take in `next`, and all but the
PSW and the shadows stays. -/
structure Jumped (next : Word) (p : Psw) (s t : State) : Prop where
  pc : t.pc = s.pc1
  pc1 : t.pc1 = s.pc2
  pc2 : t.pc2 = { addr := next, user := p.cur.U, squashed := false }
  psw : t.psw = p
  chain : t.chain = s.chain.shift next
  k : t.k = s.k + 1
  gprs : SameGprs s t
  md : SameMd s t
  fprs : SameFprs s t
  memory : SameMemory s t
  cops : SameCops s t

theorem jumped_jump {s : State} (p : Psw) (hS : p.cur.S = true) (hk : s.k < 3) :
    Jumped s.chain.c4 p s (s.jumpThroughChain p) := by
  obtain ⟨⟨hpc, hpc1, hpc2⟩, hchain, hcount⟩ := (jumpsThroughChain_jump s p).1 hk
  exact ⟨by simpa using hpc, by simpa using hpc1, hpc2, rfl, hchain, hcount.trans (if_pos hS), fun _ => rfl, rfl,
    fun _ => rfl, sameMemory_jump s p, rfl⟩

theorem jpc_jumped {s : State} (hS : s.psw.cur.S = true) (hk : s.k < 3) :
    Completes (exec .jpc s) (Jumped s.chain.c4 s.psw s) :=
  ⟨_, exec_jpc s, jumped_jump s.psw hS hk⟩

theorem jpcrs_jumped {s : State} (hU : s.psw.cur.U = false) (hS : s.psw.oth.S = true) (hk : s.k < 3) :
    Completes (exec .jpcrs s) (Jumped s.chain.c4 { s.psw with cur := s.psw.oth } s) := by
  have hpsw : s.pswReturned = { s.psw with cur := s.psw.oth } := by simp [State.pswReturned, hU]
  rw [exec_jpcrs (.inr hS), hpsw]
  exact ⟨_, rfl, jumped_jump _ hS hk⟩

/-- Settles O43, by three jumps: each takes PC-4 into the queue and brings the next address to PC-4. -/
theorem returnSequence : Obligations.ReturnSequence := by
  intro s hU _ hS hk
  refine completes_execAll_cons (jpcrs_jumped hU hS (by omega)) fun u₁ h₁ => ?_
  have hS₁ : u₁.psw.cur.S = true := by rw [h₁.psw]; exact hS
  have hk₁ : u₁.k = 1 := by rw [h₁.k, hk]
  refine completes_execAll_cons (jpc_jumped hS₁ (by omega)) fun u₂ h₂ => ?_
  have hS₂ : u₂.psw.cur.S = true := by rw [h₂.psw]; exact hS₁
  have hk₂ : u₂.k = 2 := by rw [h₂.k, hk₁]
  refine completes_execAll_cons (jpc_jumped hS₂ (by omega)) fun t h₃ => completes_execAll_nil ?_
  refine ⟨?_, ?_, ?_, ?_, ?_, by rw [h₃.k, hk₂], (h₁.gprs.trans h₂.gprs).trans h₃.gprs,
    h₃.md.trans (h₂.md.trans h₁.md), (h₁.fprs.trans h₂.fprs).trans h₃.fprs,
    (h₁.memory.trans h₂.memory).trans h₃.memory, h₃.cops.trans (h₂.cops.trans h₁.cops)⟩
  · rw [h₃.pc, h₂.pc1, h₁.pc2]
  · simp [h₃.pc1, h₂.pc2, h₁.psw, h₁.chain, PcChain.shift]
  · simp [h₃.pc2, h₂.psw, h₁.psw, h₂.chain, h₁.chain, PcChain.shift]
  · rw [h₃.psw, h₂.psw, h₁.psw]
  · simp [h₃.chain, h₂.chain, h₁.chain, PcChain.shift]

/-! ### Reads of the special registers (rules R140, R234, R357) -/

theorem State.mdRead_settled {s : State} (h : s.window ≠ .first) : s.mdRead = s.md := if_neg h

theorem State.mdRead_first {s : State} (h : s.window = .first) : s.mdRead = Config.draw s.tick .mdIn := if_pos h

theorem exec_movfrs_psw (s : State) (d : Reg) : exec (.movfrs .psw d) s = .next (writeResult s.pswRead d s) := rfl

theorem exec_movfrs_md (s : State) (d : Reg) : exec (.movfrs .md d) s = .next (writeResult s.mdRead d s) := rfl

/-- The state a read of PC-4 into `d` leaves to the end of its step: the chain has shifted, PC-1 unspecified (rule
R140). -/
def State.withChainRead (s : State) (d : Reg) : State :=
  { s.writeGpr d s.chain.c4 with chain := s.chain.shift (Config.draw s.tick .c1) }

theorem exec_movfrs_pcm4_frozen {s : State} (d : Reg) (h : s.psw.cur.S = false) :
    exec (.movfrs .pcm4 d) s = .next (s.withChainRead d).retireNext := by
  simp [exec, execMovfrs, State.withChainRead, h]

theorem exec_movfrs_pcm4_shifting {s : State} (d : Reg) (h : s.psw.cur.S = true) :
    exec (.movfrs .pcm4 d) s = .fault .chainShifting := by
  simp [exec, execMovfrs, h]

theorem chain_withChainRead_retireNext {s : State} (d : Reg) (h : s.psw.cur.S = false) :
    (s.withChainRead d).retireNext.chain = s.chain.shift (Config.draw s.tick .c1) := by
  simp [State.withChainRead, h]

/-- Settles O47: two of the reads write a register and no more, the third shifts the chain by itself. -/
theorem movfrsReads : Obligations.MovfrsReads := by
  intro s d
  refine ⟨fun u => ⟨_, exec_movfrs_psw u d, writeResult_spec _ d u⟩, fun h => ?_, fun h => ?_, fun hS => ?_,
    exec_movfrs_pcm4_shifting d⟩
  · rw [exec_movfrs_md, State.mdRead_settled h]
    exact ⟨_, rfl, writeResult_spec _ d s⟩
  · rw [exec_movfrs_md, State.mdRead_first h]
    exact ⟨_, rfl, writeResult_spec _ d s⟩
  · have hk : (s.withChainRead d).retireNext.k = 0 := by simp [State.withChainRead, hS]
    have hchain := chain_withChainRead_retireNext d hS
    exact ⟨_, exec_movfrs_pcm4_frozen d hS, writesGpr_writeGpr s d _, by rw [hchain]; rfl, by rw [hchain]; rfl,
      by rw [hchain]; rfl, by rw [hchain]; rfl, hk, ⟨rfl, rfl, fun _ => rfl, rfl, rfl⟩,
      sameMemory_retire s _ _ rfl rfl rfl, ⟨rfl, rfl, rfl⟩,
      leavesShadow_retire s _ _ (some (.gpr d)) rfl rfl rfl rfl rfl rfl⟩

/-! ### Three reads and three writes of the frozen chain (rules R140, R141) -/

/-- A read of PC-4 into `d`: the entries have moved one place towards PC-4, and all but `d` and the chain stays. -/
structure ChainRead (d : Reg) (s t : State) : Prop where
  dest : d ≠ 0 → t.gpr d = s.chain.c4
  gprs : SameGprsBut d s t
  c2 : t.chain.c2 = s.chain.c1
  c3 : t.chain.c3 = s.chain.c2
  c4 : t.chain.c4 = s.chain.c3
  special : KeepsSpecial s t
  memory : SameMemory s t

theorem movfrs_pcm4_chainRead {s : State} (d : Reg) (hS : s.psw.cur.S = false) :
    Completes (exec (.movfrs .pcm4 d) s) (ChainRead d s) := by
  obtain ⟨-, -, -, hpcm4, -⟩ := movfrsReads s d
  obtain ⟨t, ht, ⟨hd, hothers⟩, h2, h3, h4, -, -, hspecial, hmem, -, -⟩ := hpcm4 hS
  exact ⟨t, ht, fun hne => hd.trans (if_neg hne), hothers, h2, h3, h4, hspecial, hmem⟩

theorem ChainRead.frozen {d : Reg} {s t : State} (h : ChainRead d s t) (hS : s.psw.cur.S = false) :
    t.psw.cur.S = false := by
  obtain ⟨hpsw, -⟩ := h.special
  rw [hpsw, hS]

/-- Settles O49: each read finds at PC-4 what the reads before it have moved there, and leaves their destinations. -/
theorem threeChainReads : Obligations.ThreeChainReads := by
  intro s a b c hS ha hb hc hab hac hbc
  refine completes_execAll_cons (movfrs_pcm4_chainRead a hS) fun u₁ h₁ => ?_
  refine completes_execAll_cons (movfrs_pcm4_chainRead b (h₁.frozen hS)) fun u₂ h₂ => ?_
  refine completes_execAll_cons (movfrs_pcm4_chainRead c (h₂.frozen (h₁.frozen hS))) fun t h₃ =>
    completes_execAll_nil ?_
  refine ⟨?_, ?_, ?_, ?_, fun r hra hrb hrc => ?_, (h₁.special.trans h₂.special).trans h₃.special,
    (h₁.memory.trans h₂.memory).trans h₃.memory⟩
  · rw [h₃.gprs a hac, h₂.gprs a hab, h₁.dest ha]
  · rw [h₃.gprs b hbc, h₂.dest hb, h₁.c4]
  · rw [h₃.dest hc, h₂.c4, h₁.c3]
  · rw [h₃.c4, h₂.c3, h₁.c2]
  · rw [h₃.gprs r hrc, h₂.gprs r hrb, h₁.gprs r hra]

/-- The chain is frozen and no hazard shadow of a register read is open. -/
structure State.FrozenQuiet (s : State) : Prop where
  frozen : s.psw.cur.S = false
  noLoads : s.NoLoadShadow
  closed : s.window = .closed

/-- A write of `v` to PC-1 of a frozen chain (rule R141): it enters at PC-2, and all but the chain stays. -/
structure ChainWritten (v : Word) (s t : State) : Prop where
  quiet : t.FrozenQuiet
  c2 : t.chain.c2 = v
  c3 : t.chain.c3 = s.chain.c2
  c4 : t.chain.c4 = s.chain.c3
  gprs : SameGprs s t
  special : KeepsSpecial s t
  memory : SameMemory s t

theorem movtos_pcm1_chainWritten {s : State} (a : Reg) (hs : s.FrozenQuiet) :
    Completes (exec (.movtos a .pcm1) s) (ChainWritten (s.gpr a) s) := by
  obtain ⟨-, -, hpcm1, -⟩ := movtosWrites s a
  obtain ⟨t, ht, hchain, -, -, hgprs, hspecial, hmem, hshadow⟩ := hpcm1 hs.frozen
  have hsrc : s.src1 a = s.gpr a := s.readGpr_eq .src1 a (hs.noLoads _) hs.closed
  have ⟨hpsw, _⟩ := hspecial
  have ⟨_, _, hwindow, _⟩ := hshadow
  have hquiet : t.FrozenQuiet :=
    ⟨by rw [hpsw, hs.frozen], noLoadShadow_of_leavesShadow hshadow hs.noLoads, by rw [hwindow, hs.closed]; rfl⟩
  exact ⟨t, ht, hquiet, by rw [hchain, hsrc], by rw [hchain], by rw [hchain], hgprs, hspecial, hmem⟩

/-- Settles O50: each write moves the ones before it one place towards PC-4. -/
theorem threeChainWrites : Obligations.ThreeChainWrites := by
  intro s a b c hS hl hw
  refine completes_execAll_cons (movtos_pcm1_chainWritten a ⟨hS, hl, hw⟩) fun u₁ h₁ => ?_
  refine completes_execAll_cons (movtos_pcm1_chainWritten b h₁.quiet) fun u₂ h₂ => ?_
  refine completes_execAll_cons (movtos_pcm1_chainWritten c h₂.quiet) fun t h₃ => completes_execAll_nil ?_
  refine ⟨?_, ?_, ?_, (h₁.gprs.trans h₂.gprs).trans h₃.gprs, (h₁.special.trans h₂.special).trans h₃.special,
    (h₁.memory.trans h₂.memory).trans h₃.memory⟩
  · rw [h₃.c2, h₂.gprs c, h₁.gprs c]
  · rw [h₃.c3, h₂.c2, h₁.gprs b]
  · rw [h₃.c4, h₂.c3, h₁.c2]

/-! ### The end of the chain (rule R138) -/

/-- At the end of a step with the chain shifting, PC-4 takes what PC-3 held, which the invariant says is the address at
the head of the queue. -/
theorem Effect.c4_retire {i : Instr} {s u : State} (h : Effect i s u) (a : After) (hs : s.ChainInvariant)
    (hk : 4 ≤ (u.retire a).k) : (u.retire a).chain.c4 = s.pc.addr := by
  obtain ⟨-, -, hc3, -⟩ := hs
  cases hS : u.psw.cur.S with
  | false => simp [hS] at hk
  | true =>
    have hchain : u.chain = s.chain := h.chain.resolve_right (by simp [hS])
    have hcount : 3 ≤ s.k := by simpa [hS, h.k_eq] using hk
    simpa [hS, PcChain.shift, hchain] using hc3 hcount

/-- Settles O58, by the two ways in which a step ends; an exception entry leaves no shift behind it. -/
theorem chainEndIsLastExecuted : Obligations.ChainEndIsLastExecuted := by
  intro s t hs h hk
  obtain ⟨i, u, a, heff, rfl⟩ | ⟨kind, rfl⟩ := step_retires_or_enters h
  · exact heff.c4_retire a hs hk
  · simp at hk

end Sys2Proof.Machine

/-! The memory instructions: loads, stores, and the coprocessor cycles that the FPU does not answer (rules R160 to R169,
R250, R351, R352), and the words the spec prints. -/

namespace Sys2Proof.Machine

/-! ### Loads and stores of general registers (rules R160, R161, R164, R165) -/

theorem exec_ld (s : State) (o : BitVec 17) (a d : Reg) : exec (.ld o a d) s = .next (loadGpr .cached o a d s) := rfl

theorem exec_ldt (s : State) (o : BitVec 17) (a d : Reg) : exec (.ldt o a d) s = .next (loadGpr .through o a d s) := rfl

theorem exec_st (s : State) (o : BitVec 17) (a b : Reg) : exec (.st o a b) s = .next (storeGpr .cached o a b s) := rfl

theorem exec_stt (s : State) (o : BitVec 17) (a b : Reg) :
    exec (.stt o a b) s = .next (storeGpr .through o a b s) := rfl

/-- Settles O15, by what a load does on either path. -/
theorem loadsWriteDest : Obligations.LoadsWriteDest := fun s o a d =>
  ⟨⟨_, exec_ld s o a d, loadGpr_spec .cached o a d s⟩, ⟨_, exec_ldt s o a d, loadGpr_spec .through o a d s⟩⟩

/-- Settles O16, by what a store does on either path. -/
theorem storesWriteWord : Obligations.StoresWriteWord := fun s o a b =>
  ⟨⟨_, exec_st s o a b, storeWord_spec .cached _ _ s⟩, ⟨_, exec_stt s o a b, storeWord_spec .through _ _ s⟩⟩

/-! ### Loads and stores of floating point registers (rules R162, R163, R250) -/

section
variable {s : State} {o : BitVec 17} {a : Reg} {f : FReg}

/-- The end of the step that loads `v` into floating point register `f`. -/
def State.loadedFpr (s : State) (f : FReg) (v : Word) : State :=
  (s.writeFpr f v).retire { next := s.incrementer, loaded := some (.fpr f) }

theorem loadedFpr_spec (s : State) (f : FReg) (v : Word) :
    WritesFpr f v s (s.loadedFpr f v) ∧ SameGprs s (s.loadedFpr f v) ∧ SameProcessor s (s.loadedFpr f v) ∧
      SameCops s (s.loadedFpr f v) ∧ SameMemory s (s.loadedFpr f v) ∧ GoesOn s (s.loadedFpr f v) ∧
      LeavesShadow (some (.fpr f)) (some (.fpr f)) false s (s.loadedFpr f v) :=
  ⟨writesFpr_writeFpr s f v, fun _ => rfl, ⟨rfl, rfl, rfl⟩, rfl, sameMemory_retire s _ _ rfl rfl rfl,
    moves_retire s _ _ rfl rfl rfl rfl rfl, leavesShadow_retire s _ _ (some (.fpr f)) rfl rfl rfl rfl rfl rfl⟩

theorem exec_ldf_fpu (h : s.params.hasFpu = true) :
    exec (.ldf o a f) s = .next (s.loadedFpr f (s.loadWord .cached (s.dataWord (s.effectiveAddress o a)))) :=
  if_pos h

theorem exec_stf_fpu (h : s.params.hasFpu = true) :
    exec (.stf o a f) s =
      .next (s.storeWord .cached (s.dataWord (s.effectiveAddress o a)) (s.readFpr .fsrc2 f)).retireNext :=
  if_pos h

theorem exec_ldf_noFpu (h : s.params.hasFpu = false) : exec (.ldf o a f) s = .fault .noFpu :=
  if_neg (by simp [h])

theorem exec_stf_noFpu (h : s.params.hasFpu = false) : exec (.stf o a f) s = .fault .noFpu :=
  if_neg (by simp [h])

end

/-- Settles O17, by the two configurations. -/
theorem floatLoadStore : Obligations.FloatLoadStore := fun s _ _ f =>
  ⟨fun h => ⟨⟨_, exec_ldf_fpu h, loadedFpr_spec s f _⟩, ⟨_, exec_stf_fpu h, storeWord_spec .cached _ _ s⟩⟩,
    fun h => ⟨exec_ldf_noFpu h, exec_stf_noFpu h⟩⟩

/-! ### A cycle the FPU does not answer (rules R114, R166, R250) -/

/-- A bus cycle as the processor drives it, with PSW.U beside the address word. -/
def State.busCycle (s : State) (kind : CopKind) (a data : Word) : CopCycle :=
  { kind := kind, addr := a, data := data, user := s.psw.cur.U }

/-- The coprocessors have been sent one more cycle. -/
def State.sent (s : State) (c : CopCycle) : State := { s with copLog := c :: s.copLog }

/-- Without an FPU, and at COP# 1 to 7, a cycle goes to the coprocessors. -/
theorem fpuAddressed_eq_false {s : State} {a : Word} (h : s.params.hasFpu = false ∨ a.toNat / 2 ^ 14 % 8 ≠ 0) :
    s.fpuAddressed a = false := by
  rw [← Bool.not_eq_true, fpuAddressed_iff, not_and_or, Bool.not_eq_true]
  exact h

theorem copCycle_outside {s : State} {a : Word} (h : s.fpuAddressed a = false) (kind : CopKind) (data : Word) :
    s.copCycle kind a data =
      (s.sent (s.busCycle kind a data), Config.copAnswer (s.busCycle kind a data :: s.copLog)) := by
  simp [State.copCycle, h, State.outsideCycle, State.sent, State.busCycle]

/-- A cycle whose answer goes to no register. -/
theorem sent_retireNext_spec (s : State) (c : CopCycle) :
    SameGprs s (s.sent c).retireNext ∧ SendsCycle c s (s.sent c).retireNext ∧ SameMemory s (s.sent c).retireNext ∧
      GoesOn s (s.sent c).retireNext ∧ LeavesShadow none none false s (s.sent c).retireNext :=
  ⟨fun _ => rfl, ⟨rfl, ⟨rfl, rfl, rfl⟩, fun _ => rfl⟩, sameMemory_retire s _ _ rfl rfl rfl,
    moves_retire s _ _ rfl rfl rfl rfl rfl, leavesShadow_retire s _ _ none rfl rfl rfl rfl rfl rfl⟩

/-- The end of the step that puts `v` into `d` after cycle `c`. -/
def State.loadedFromCop (s : State) (c : CopCycle) (d : Reg) (v : Word) : State :=
  ((s.sent c).writeGpr d v).retire { next := s.incrementer, loaded := some (.gpr d) }

theorem loadedFromCop_spec (s : State) (c : CopCycle) (d : Reg) (v : Word) :
    WritesGpr d v s (s.loadedFromCop c d v) ∧ SendsCycle c s (s.loadedFromCop c d v) ∧
      SameMemory s (s.loadedFromCop c d v) ∧ GoesOn s (s.loadedFromCop c d v) ∧
      LeavesShadow (some (.gpr d)) (some (.gpr d)) false s (s.loadedFromCop c d v) :=
  ⟨writesGpr_writeGpr (s.sent c) d v, ⟨rfl, ⟨rfl, rfl, rfl⟩, fun _ => rfl⟩, sameMemory_retire s _ _ rfl rfl rfl,
    moves_retire s _ _ rfl rfl rfl rfl rfl, leavesShadow_retire s _ _ (some (.gpr d)) rfl rfl rfl rfl rfl rfl⟩

/-! ### The instructions that drive one (rules R167 to R169) -/

section
variable {s : State} {c : BitVec 17} {a : Reg}

theorem exec_aluc_outside (h : s.fpuAddressed (s.effectiveAddress c a) = false) :
    exec (.aluc c a) s = .next (s.sent (s.busCycle .alu (s.effectiveAddress c a) 0)).retireNext := by
  simp [exec, execAluc, aluCop, copCycle_outside h]

theorem exec_movtoc_outside (h : s.fpuAddressed (s.effectiveAddress c a) = false) (b : Reg) :
    exec (.movtoc c a b) s =
      .next (s.sent (s.busCycle .toCop (s.effectiveAddress c a) (s.src2 b))).retireNext := by
  simp [exec, execMovtoc, moveToCop, copCycle_outside h]

theorem exec_movfrc_outside (h : s.fpuAddressed (s.effectiveAddress c a) = false) {d : Reg} (hd : d ≠ 0) :
    exec (.movfrc c a d) s =
      .next (s.loadedFromCop (s.busCycle .fromCop (s.effectiveAddress c a) 0) d
        (if d = a then Config.draw s.tick .dest
          else Config.copAnswer (s.busCycle .fromCop (s.effectiveAddress c a) 0 :: s.copLog))) := by
  simp [exec, execMovfrc, moveFromCop, copCycle_outside h, hd, State.loadedFromCop]

end

/-- Settles O21, by the one cycle each instruction sends and the frame of a step that sends one. -/
theorem coprocessorCycles : Obligations.CoprocessorCycles := by
  intro s c a b d hcop
  have h : s.fpuAddressed (s.effectiveAddress c a) = false := fpuAddressed_eq_false hcop
  refine ⟨fun hd => ⟨_, exec_movfrc_outside h hd, loadedFromCop_spec s _ d _⟩, ?_,
    ⟨_, exec_movtoc_outside h b, sent_retireNext_spec s _⟩, ⟨_, exec_aluc_outside h, sent_retireNext_spec s _⟩⟩
  rw [exec_movfrc_zero]
  exact ⟨_, exec_aluc_outside h, sent_retireNext_spec s _⟩

end Sys2Proof.Machine

namespace Sys2Proof

/-! ### Printed words (rules R160 to R263) -/

/-- The encoder's word for a well-formed instruction decodes to it. -/
theorem decode_of_encode {w : Word} {i : Instr} (hw : encode i = w) (hwf : i.wf = true) : decode w = .ok i :=
  hw ▸ encodeThenDecode i hwf

/-- Settles O3: each printed word is the encoder's word for its instruction. -/
theorem printedWordsDecode : Obligations.PrintedWordsDecode := by
  refine ⟨?_, ?_, ?_, ?_, ?_, ?_, ?_, ?_, ?_, ?_, ?_⟩ <;> exact decode_of_encode (by decide) rfl

end Sys2Proof

/-! The branches: the signals of a compare as facts about integers, and from them the six conditions; the word, the
target and the squashing that the twelve share (rules R180 to R187, R191, R200). -/

namespace Sys2Proof.Machine

/-! ### The subtraction of a compare (rule R200) -/

section
variable (a b : Word)

theorem subC_sum : (subC a b).sum = a - b := by
  rw [subC, addC_sum, BitVec.sub_eq_add_neg, BitVec.neg_eq_not_add, BitVec.add_assoc]
  rfl

/-- The carry of a subtraction means no borrow. -/
theorem subC_carry : (subC a b).carry = true ↔ b.toNat ≤ a.toNat := by
  have := b.isLt
  simp only [subC, addC, BitVec.toNat_not, Bool.toNat_true, decide_eq_true_eq]
  omega

theorem word_toInt_not : (~~~b).toInt = -b.toInt - 1 := by
  have := b.isLt
  simp only [BitVec.toInt_eq_toNat_cond, BitVec.toNat_not]
  omega

theorem subC_overflow : (subC a b).overflow = true ↔ ¬ FitsSigned (a.toInt - b.toInt) := by
  have hdiff : a.toInt + (~~~b).toInt + (true.toNat : Int) = a.toInt - b.toInt := by
    rw [word_toInt_not, Bool.toNat_true]
    omega
  rw [subC, addC_overflow, hdiff]

/-! ### The six conditions (rules R180, R182 to R187) -/

theorem compareWords_eq : (compareWords a b).eq = true ↔ a = b := by
  simp only [Compare.eq, compareWords, subC_sum, beq_iff_eq]
  exact sub_eq_zero

theorem compareWords_hs : (compareWords a b).hs = true ↔ b.toNat ≤ a.toNat := subC_carry a b

/-- A signed difference reduced modulo 2^32 keeps its sign exactly if it is a signed 32-bit number. -/
theorem toInt_sub_neg_iff : (a - b).toInt < 0 ↔ (a.toInt < b.toInt ↔ FitsSigned (a.toInt - b.toInt)) := by
  have ha := a.toInt_lt
  have ha' := a.le_toInt
  have hb := b.toInt_lt
  have hb' := b.le_toInt
  rw [BitVec.toInt_sub, FitsSigned, Int.bmod_def]
  omega

/-- N xor V is the sign of the exact difference, which N alone is not where the subtraction overflows. -/
theorem compareWords_lt : (compareWords a b).lt = true ↔ a.toInt < b.toInt := by
  have hn : (compareWords a b).n = true ↔ (a - b).toInt < 0 := by
    simp [compareWords, subC_sum, BitVec.msb_eq_toInt]
  have hv : (compareWords a b).v = true ↔ ¬ FitsSigned (a.toInt - b.toInt) := subC_overflow a b
  rw [toInt_sub_neg_iff] at hn
  rw [Compare.lt, Bool.xor_iff_ne, ne_eq, Bool.eq_iff_iff, hn, hv]
  tauto

theorem compareWords_ne : (compareWords a b).ne = true ↔ a ≠ b := by
  rw [ne_eq, ← compareWords_eq a b]
  simp [Compare.ne, Compare.eq]

theorem compareWords_lo : (compareWords a b).lo = true ↔ a.toNat < b.toNat := by
  rw [← not_le, ← compareWords_hs a b]
  simp [Compare.lo, Compare.hs]

theorem compareWords_ge : (compareWords a b).ge = true ↔ b.toInt ≤ a.toInt := by
  rw [← not_lt, ← compareWords_lt a b]
  simp [Compare.ge, Compare.lt]

end

/-! ### What the branches share (rules R93, R181) -/

/-- `branch` is the branch with condition code `cond` that tests `signal`, with SQ if `squashing`. -/
structure BranchesBy (cond : BitVec 3) (squashing : Bool) (branch : Reg → Reg → BitVec 16 → Instr)
    (signal : Compare → Bool) : Prop where
  wf : ∀ a b o, (branch a b o).wf = true
  word : ∀ a b o, encode (branch a b o) = packBranch cond a b (BitVec.ofBool squashing) o
  exec_eq : ∀ a b o s, exec (branch a b o) s = .next (branchOn (signal (s.compareRegs a b)) squashing o s)

section
variable {cond : BitVec 3} {sq : Bool} {branch plain squashing : Reg → Reg → BitVec 16 → Instr}
  {signal : Compare → Bool} {holds : Word → Word → Prop}

theorem BranchesBy.decode_eq (h : BranchesBy cond sq branch signal) (a b : Reg) (o : BitVec 16) :
    decode (packBranch cond a b (BitVec.ofBool sq) o) = .ok (branch a b o) :=
  decode_of_encode (h.word a b o) (h.wf a b o)

/-- A branch goes on or to its target as its condition on the operands says, and never traps. -/
theorem BranchesBy.completes (h : BranchesBy cond sq branch signal)
    (hsignal : ∀ x y, signal (compareWords x y) = true ↔ holds x y) (a b : Reg) (o : BitVec 16) (s : State) :
    Completes (exec (branch a b o) s) (Branches (holds (s.src1 a) (s.src2 b)) sq o s) :=
  ⟨_, h.exec_eq a b o s, branchOn_spec _ sq _ o s (hsignal _ _)⟩

theorem branchPair_of_branchesBy (hsignal : ∀ x y, signal (compareWords x y) = true ↔ holds x y)
    (hplain : BranchesBy cond false plain signal) (hsquashing : BranchesBy cond true squashing signal) :
    BranchPair cond plain squashing signal holds :=
  ⟨hsignal, fun a b o => ⟨hplain.decode_eq a b o, hsquashing.decode_eq a b o, fun s =>
    ⟨hplain.completes hsignal a b o s, hsquashing.completes hsignal a b o s⟩⟩⟩

end

/-- Settles O29, by what the signals of each condition mean; the word and the effect of each branch are those of its
row in the encoder and of its meaning. -/
theorem branchesOnIntegers : Obligations.BranchesOnIntegers := by
  refine ⟨branchPair_of_branchesBy compareWords_eq ?_ ?_, branchPair_of_branchesBy compareWords_ge ?_ ?_,
    branchPair_of_branchesBy compareWords_hs ?_ ?_, branchPair_of_branchesBy compareWords_lo ?_ ?_,
    branchPair_of_branchesBy compareWords_lt ?_ ?_, branchPair_of_branchesBy compareWords_ne ?_ ?_⟩
  all_goals exact ⟨fun _ _ _ => rfl, fun _ _ _ => rfl, fun _ _ _ _ => rfl⟩

end Sys2Proof.Machine

/-! The compute instructions that add or subtract: the adder as integers have it, and from it the exact result or the
overflow trap of `add`, `sub`, `subnc` and `addi`, the copy of `mov` and the idle step of `nop` (rules R200, R201, R205,
R206, R212, R218, R230, R312). -/

namespace Sys2Proof.Machine

/-! ### The adder (rule R200) -/

theorem addC_carry (a b : Word) (cin : Bool) :
    (addC a b cin).carry = true ↔ 2 ^ 32 ≤ a.toNat + b.toNat + cin.toNat :=
  decide_eq_true_iff

/-- Settles O30, by what each of the adder's three outputs is, the complement of `b` standing for `-b - 1`. -/
theorem adderExact : Obligations.AdderExact :=
  ⟨fun a b cin => ⟨addC_sum a b cin, addC_carry a b cin, addC_overflow a b cin⟩,
    fun a b => ⟨subC_sum a b, subC_carry a b, subC_overflow a b⟩⟩

/-- The adder has computed the integer `n`: its sum is `n` modulo 2^32, and it overflows where `n` is no signed 32-bit
number. -/
structure AddResult.Computes (r : AddResult) (n : Int) : Prop where
  sum : r.sum = BitVec.ofInt 32 n
  overflow : r.overflow = true ↔ ¬ FitsSigned n

section
variable (a b : Word)

theorem addC_computes (cin : Bool) : (addC a b cin).Computes (a.toInt + b.toInt + cin.toNat) := by
  refine ⟨?_, addC_overflow a b cin⟩
  rw [addC_sum, BitVec.ofInt_add, BitVec.ofInt_add, BitVec.ofInt_toInt, BitVec.ofInt_toInt, BitVec.ofInt_natCast]

theorem add_computes : (addC a b false).Computes (a.toInt + b.toInt) := by
  simpa using addC_computes a b false

theorem sub_computes : (addC a (~~~b) true).Computes (a.toInt - b.toInt) := by
  have hdiff : a.toInt + (~~~b).toInt + (true.toNat : Int) = a.toInt - b.toInt := by
    rw [word_toInt_not, Bool.toNat_true]
    omega
  exact hdiff ▸ addC_computes a (~~~b) true

theorem subnc_computes : (addC a (~~~b) false).Computes (a.toInt - b.toInt - 1) := by
  have hdiff : a.toInt + (~~~b).toInt = a.toInt - b.toInt - 1 := by
    rw [word_toInt_not]
    omega
  exact hdiff ▸ add_computes a (~~~b)

end

/-! ### The exact result or the overflow trap (rules R201, R205, R206, R230, R312) -/

/-- The overflow trap is taken exactly if the exact result is no signed 32-bit number, PSW.V = 0 and the instruction is
in `OVF_SET`. -/
theorem overflowTraps_iff {s : State} {i : OvfInstr} {r : AddResult} {n : Int} (h : r.Computes n) :
    s.overflowTraps i r.overflow = true ↔
      ¬ FitsSigned n ∧ s.psw.cur.V = false ∧ inOvfSet s.params.ovfSet i = true := by
  simp only [State.overflowTraps, Bool.and_eq_true, h.overflow, Bool.not_eq_true']
  tauto

/-- An instruction whose step is that of the adder writes the integer the adder has computed, or traps. -/
theorem writesOrTraps_of_arithmetic {i : Instr} {o : OvfInstr} {inSet : OvfSet → Bool} {d : Reg}
    {exact : State → Int} {r : State → AddResult} (hexec : ∀ s, exec i s = .next (arithmetic o (r s) d s))
    (hset : ∀ p, inOvfSet p o = inSet p) (hr : ∀ s, (r s).Computes (exact s)) : WritesOrTraps i inSet d exact := by
  intro s
  have htraps := overflowTraps_iff (s := s) (i := o) (hr s)
  rw [hset] at htraps
  refine ⟨fun h => ⟨_, hexec s, ?_⟩, fun hfit hV hin => ⟨_, hexec s, ?_⟩⟩
  · have hnot : s.overflowTraps o (r s).overflow = false := by
      rw [← Bool.not_eq_true, htraps]
      rintro ⟨hfit, hV, hin⟩
      simp [hfit, hV, hin] at h
    exact (hr s).sum ▸ arithmetic_completes o (r s) d s hnot
  · exact arithmetic_traps o (r s) d s (htraps.2 ⟨hfit, hV, hin⟩)

/-- Settles O31, by the integer that the adder computes for each of the four. -/
theorem arithmeticOrTrap : Obligations.ArithmeticOrTrap := fun a b _ n =>
  ⟨writesOrTraps_of_arithmetic (fun _ => rfl) (fun _ => rfl) fun s => add_computes (s.src1 a) (s.src2 b),
    writesOrTraps_of_arithmetic (fun _ => rfl) (fun _ => rfl) fun s => sub_computes (s.src1 a) (s.src2 b),
    writesOrTraps_of_arithmetic (fun _ => rfl) (fun _ => rfl) fun s => subnc_computes (s.src1 a) (s.src2 b),
    writesOrTraps_of_arithmetic (fun _ => rfl) (fun _ => rfl) fun s =>
      sext17_toInt n ▸ add_computes (s.src1 a) (sext17 n)⟩

/-! ### `mov` and `nop` (rules R212, R218) -/

theorem exec_mov (s : State) (a d : Reg) : exec (.mov a d) s = exec (.add a 0 d) s := rfl

theorem exec_nop (s : State) : exec .nop s = exec (.add 0 0 0) s := rfl

theorem State.src1_zero (s : State) : s.src1 0 = 0 := s.readGpr_zero .src1

theorem State.src2_zero (s : State) : s.src2 0 = 0 := s.readGpr_zero .src2

theorem fitsSigned_toInt (a : Word) : FitsSigned a.toInt := ⟨a.le_toInt, a.toInt_lt⟩

/-- An `add` of r0 copies its operand: a word is in the signed range, so there is no overflow. -/
theorem alwaysWrites_add_zero (a d : Reg) : AlwaysWrites (.add a 0 d) d fun s => s.src1 a := by
  intro s
  obtain ⟨hadd, -⟩ := arithmeticOrTrap a 0 d 0
  obtain ⟨hwrites, -⟩ := hadd s
  have hexact : (s.src1 a).toInt + (s.src2 0).toInt = (s.src1 a).toInt := by
    rw [s.src2_zero]
    exact add_zero _
  simp only [hexact, BitVec.ofInt_toInt] at hwrites
  exact hwrites (.inl (fitsSigned_toInt _))

/-- A write to r0 changes no register and no shadow (rules R21, R351). -/
theorem OnlyWritesGpr.of_zero {v : Word} {s t : State} (h : OnlyWritesGpr 0 v s t) :
    SameGprs s t ∧ KeepsSpecial s t ∧ SameMemory s t ∧ GoesOn s t ∧ LeavesShadow none none false s t := by
  obtain ⟨⟨-, hothers⟩, hspecial, hmem, hgoes, hshadow⟩ := h
  refine ⟨fun r => ?_, hspecial, hmem, hgoes, hshadow⟩
  by_cases hr : r = 0
  · rw [hr, State.gpr_zero, State.gpr_zero]
  · exact hothers r hr

/-- The word of `add` with Src2 = r0 is that of `mov`, or of `nop` where the other two registers are r0 as well (rule
R100). -/
theorem decode_mov (a d : Reg) :
    decode (packCompute 0b100#3 a 0 d 0b000000011001#12) = .ok (if a = 0 ∧ d = 0 then .nop else .mov a d) := by
  split
  · next h =>
    obtain ⟨rfl, rfl⟩ := h
    exact decode_of_encode rfl rfl
  · next h => exact decode_of_encode rfl (by simpa [Instr.wf, imp_iff_not_or] using h)

/-- Settles O32, by what `add` with r0 does. -/
theorem movAndNop : Obligations.MovAndNop := by
  refine ⟨fun a d => ⟨decode_mov a d, fun s => exec_mov s a d, fun s => alwaysWrites_add_zero a d s⟩,
    fun s => ⟨exec_nop s, ?_⟩⟩
  obtain ⟨t, ht, hwrites⟩ := alwaysWrites_add_zero 0 0 s
  exact ⟨t, ht, hwrites.of_zero⟩

end Sys2Proof.Machine

/-! The compute instructions that only write Dest: the logic instructions, the shifter and the mnemonics built from `sh`
(rules R94, R98, R207 to R211, R213 to R217, R219, R284). -/

namespace Sys2Proof.Machine

/-! ### Instructions whose step is one register write -/

theorem alwaysWrites_of_writeResult {i : Instr} {d : Reg} {v : State → Word}
    (h : ∀ s, exec i s = .next (writeResult (v s) d s)) : AlwaysWrites i d v :=
  fun s => ⟨_, h s, writeResult_spec (v s) d s⟩

theorem AlwaysWrites.congr {i : Instr} {d : Reg} {v w : State → Word} (h : AlwaysWrites i d v) (hv : ∀ s, v s = w s) :
    AlwaysWrites i d w :=
  funext hv ▸ h

theorem alwaysWrites_sh (a b d : Reg) (n : Nat) :
    AlwaysWrites (.sh a b d n) d fun s => funnelShift (s.src2 b) (s.src1 a) n :=
  alwaysWrites_of_writeResult fun _ => rfl

/-- Settles O33: each word is the encoder's, and each step is one register write. -/
theorem logicInstructions : Obligations.LogicInstructions := fun _ _ _ =>
  ⟨⟨decode_of_encode rfl rfl, alwaysWrites_of_writeResult fun _ => rfl⟩,
    ⟨decode_of_encode rfl rfl, alwaysWrites_of_writeResult fun _ => rfl⟩,
    ⟨decode_of_encode rfl rfl, alwaysWrites_of_writeResult fun _ => rfl⟩,
    ⟨decode_of_encode rfl rfl, alwaysWrites_of_writeResult fun _ => rfl⟩,
    decode_of_encode rfl rfl, alwaysWrites_of_writeResult fun _ => rfl⟩

/-! ### The shift amount and its field (rules R98, R213) -/

section
variable (q : BitVec 3) (j : Fin 4)

theorem shiftField_amount : shiftField (32 - (4 * q.toNat + j.val)) = q ++ (1#4 <<< j.val) := by
  have hq : (32 - (32 - (4 * q.toNat + j.val))) / 4 = q.toNat := by omega
  have hj : (32 - (32 - (4 * q.toNat + j.val))) % 4 = j.val := by omega
  rw [shiftField, hq, hj, BitVec.ofNat_toNat, BitVec.setWidth_eq]

theorem shiftAmountValid_amount : shiftAmountValid (32 - (4 * q.toNat + j.val)) = true := by
  simp only [shiftAmountValid, Bool.and_eq_true, decide_eq_true_eq]
  omega

theorem decode_asr (a d : Reg) :
    decode (packCompute 0b001#3 a 0 d (0b00010#5 ++ (q ++ (1#4 <<< j.val)))) =
      .ok (.asr a d (32 - (4 * q.toNat + j.val))) :=
  decode_of_encode (by rw [encode, shiftField_amount]) (shiftAmountValid_amount q j)

theorem decode_sh (a b d : Reg) :
    decode (packCompute 0b001#3 a b d (0b00100#5 ++ (q ++ (1#4 <<< j.val)))) =
      .ok (.sh a b d (32 - (4 * q.toNat + j.val))) :=
  decode_of_encode (by rw [encode, shiftField_amount]) (shiftAmountValid_amount q j)

end

/-! ### What the shifter makes of its operands (rules R214 to R217) -/

section
variable (a b high low : Word) (n : Nat)

theorem asrWord_toInt : (asrWord a n).toInt = a.toInt / 2 ^ n := by
  rw [asrWord, BitVec.toInt_sshiftRight, Int.shiftRight_eq_div_pow]
  push_cast
  rfl

theorem funnelShift_toNat :
    (funnelShift high low n).toNat = (high.toNat * 2 ^ 32 + low.toNat) / 2 ^ n % 2 ^ 32 := by
  rw [funnelShift, BitVec.toNat_setWidth, BitVec.toNat_ushiftRight, BitVec.toNat_append,
    ← Nat.shiftLeft_add_eq_or_of_lt low.isLt, Nat.shiftLeft_eq, Nat.shiftRight_eq_div_pow]

/-- The two low bits are the remainder by 4. -/
theorem lowBits_toNat : (field b 0 2).toNat = b.toNat % 4 := by
  simp [field, BitVec.extractLsb'_toNat]

theorem rotateBytes_eq : rotateBytes a b = a.rotateLeft (8 * (b.toNat % 4)) := by
  rw [rotateBytes, lowBits_toNat]

theorem rotateBytesComplement_eq : rotateBytesComplement a b = a.rotateLeft (8 * (3 - b.toNat % 4)) := by
  rw [rotateBytesComplement, BitVec.toNat_not, lowBits_toNat]

end

/-- Settles O34: the words by the shift field, the effects by what the shifter makes of the operands. -/
theorem shifterInstructions : Obligations.ShifterInstructions := fun a b d n q j =>
  ⟨⟨decode_asr q j a d, _, alwaysWrites_of_writeResult fun _ => rfl, fun s => asrWord_toInt (s.src1 a) n⟩,
    ⟨decode_sh q j a b d, _, alwaysWrites_sh a b d n, fun s => funnelShift_toNat (s.src2 b) (s.src1 a) n⟩,
    ⟨decode_of_encode rfl rfl, (alwaysWrites_of_writeResult fun _ => rfl).congr fun s =>
      rotateBytes_eq (s.src1 a) (s.src2 b)⟩,
    decode_of_encode rfl rfl, (alwaysWrites_of_writeResult fun _ => rfl).congr fun s =>
      rotateBytesComplement_eq (s.src1 a) (s.src2 b)⟩

/-! ### The mnemonics built from `sh` (rules R219, R284) -/

section
variable (x : Word) {n : Nat}

/-- Bit `i` of a funnel shift: bit `n + i` of the two words one after the other. -/
theorem funnelShift_getLsbD (high low : Word) (n : Nat) {i : Nat} (hi : i < 32) :
    (funnelShift high low n).getLsbD i =
      if n + i < 32 then low.getLsbD (n + i) else high.getLsbD (n + i - 32) := by
  rw [funnelShift, BitVec.getLsbD_setWidth, BitVec.getLsbD_ushiftRight, BitVec.getLsbD_append, decide_eq_true hi,
    Bool.true_and]

theorem funnelShift_zero_high : funnelShift 0 x n = x >>> n := by
  apply BitVec.eq_of_getLsbD_eq
  intro i hi
  rw [funnelShift_getLsbD _ _ _ hi, BitVec.getLsbD_ushiftRight]
  split
  · rfl
  · next h => simp [BitVec.getLsbD_of_ge x (n + i) (by omega)]

theorem funnelShift_zero_low (hn : n ≤ 32) : funnelShift x 0 (32 - n) = x <<< n := by
  apply BitVec.eq_of_getLsbD_eq
  intro i hi
  rw [funnelShift_getLsbD _ _ _ hi, BitVec.getLsbD_shiftLeft]
  split
  · next h => simp [show i < n by omega]
  · next h => simp [hi, show ¬ i < n by omega, show 32 - n + i - 32 = i - n by omega]

theorem funnelShift_self (hn : n ≤ 32) : funnelShift x x n = x.rotateRight n := by
  apply BitVec.eq_of_getLsbD_eq
  intro i hi
  rw [funnelShift_getLsbD _ _ _ hi, BitVec.getLsbD_rotateRight]
  rcases Nat.lt_or_eq_of_le hn with hlt | rfl
  · rw [Nat.mod_eq_of_lt hlt]
    by_cases h : n + i < 32
    · simp [h, show i < 32 - n by omega]
    · simp [h, hi, show ¬ i < 32 - n by omega, show n + i - 32 = i - (32 - n) by omega]
  · simp [hi]

end

theorem shiftAmountValid_iff (n : Nat) : shiftAmountValid n = true ↔ 1 ≤ n ∧ n ≤ 32 := by
  simp [shiftAmountValid]

/-- Settles O60: each mnemonic is an `sh` with r0 or the other operand's word in one half of the two-word number. -/
theorem shiftMnemonics : Obligations.ShiftMnemonics := by
  intro a d n hn
  refine ⟨fun h1 => ?_, fun hlt => ?_, (alwaysWrites_sh a 0 d n).congr fun s => ?_,
    (alwaysWrites_sh 0 a d (32 - n)).congr fun s => ?_, fun s hsame => ?_⟩
  · have hvalid := (shiftAmountValid_iff n).2 ⟨h1, hn⟩
    exact ⟨hvalid, hvalid⟩
  · exact (shiftAmountValid_iff (32 - n)).2 ⟨by omega, by omega⟩
  · rw [s.src2_zero, funnelShift_zero_high]
  · rw [s.src1_zero, funnelShift_zero_low _ hn]
  · have hrotate : funnelShift (s.src2 a) (s.src1 a) n = (s.src1 a).rotateRight n := by
      rw [← hsame, funnelShift_self _ hn]
    exact hrotate ▸ alwaysWrites_sh a a d n s

end Sys2Proof.Machine

/-! The step instructions of multiplication and division: what each makes of its operands, when it traps, and the
default `MD_OVF` (rules R200, R202 to R204, R220, R312, R355, R357). -/

namespace Sys2Proof.Machine

/-! ### What each makes of its operands (rules R202 to R204) -/

section
variable (a b md : Word)

theorem mstartStep_result : (mstartStep b md).result = if md.msb then 0 - b else 0 := by
  rw [mstartStep, subC_sum]

/-- 0 less Src2 is out of range only for the least signed number. -/
theorem not_fitsSigned_neg_iff : ¬ FitsSigned (0 - b.toInt) ↔ b = 0x80000000#32 := by
  have hlow := b.le_toInt
  have hhigh := b.toInt_lt
  have hleast : (0x80000000#32 : Word).toInt = -2 ^ 31 := rfl
  rw [← BitVec.toInt_inj, hleast, FitsSigned]
  omega

theorem mstartStep_overflow : (mstartStep b md).overflow = true ↔ md.msb = true ∧ b = 0x80000000#32 := by
  rw [mstartStep, Bool.and_eq_true, subC_overflow, ← not_fitsSigned_neg_iff]
  rfl

theorem mstepStep_result : (mstepStep a b md).result = if md.msb then a <<< 1 + b else a <<< 1 := by
  simp only [mstepStep, (add_computes (a <<< 1) b).sum, BitVec.ofInt_add, BitVec.ofInt_toInt]

theorem mstepStep_overflow :
    (mstepStep a b md).overflow = true ↔ md.msb = true ∧ ¬ FitsSigned ((a <<< 1).toInt + b.toInt) := by
  rw [mstepStep, Bool.and_eq_true, (add_computes (a <<< 1) b).overflow]

/-- A bit put into the place that a shift by one has cleared. -/
theorem shiftLeft_one_or_bit (c : Bool) :
    a <<< 1 ||| (BitVec.ofBool c).setWidth 32 = a <<< 1 + (if c then 1 else 0) := by
  rw [← BitVec.add_eq_or_of_and_eq_zero]
  · cases c <;> rfl
  · ext i hi
    cases i <;> simp

/-- A step of the restoring division, from the partial remainder `r`: Src1 with the next bit of MD shifted in. -/
theorem dstepStep_eq : dstepStep a b md =
    let r := a <<< 1 + (if md.msb then 1 else 0)
    { result := if (r - b).msb then r else r - b
      md := if (r - b).msb then md <<< 1 else md <<< 1 + 1
      overflow := (subC r b).overflow } := by
  have hone : md <<< 1 ||| 1#32 = md <<< 1 + 1 := shiftLeft_one_or_bit md true
  simp only [dstepStep, shiftLeft_one_or_bit, subC_sum, hone]

end

/-! ### The step or the trap (rules R220, R312) -/

section
variable {s : State}

/-- An instruction whose step is that of a step instruction makes its step, or takes the trap. -/
theorem stepsMdOrTraps_of_mdInstruction {i : Instr} {op : MdOp} {a b : Word} {r : MdStep} {d : Reg} {adder : Prop}
    (hexec : exec i s = .next (mdInstruction (mdOvfInstr op) op a b r d s))
    (hadder : r.overflow = true ∧ op ≠ .dstep ↔ adder) :
    StepsMdOrTraps i d (if s.mdUnsettled then Config.draw s.tick .dest else r.result)
      (if s.mdUnsettled then Config.draw s.tick .md else r.md) (s.MdTraps op a b s.mdSeen adder) s := by
  have htraps := s.mdTraps_iff op a b s.mdSeen r.overflow
  rw [propext hadder] at htraps
  rw [htraps]
  exact ⟨fun h => ⟨_, hexec, mdInstruction_traps _ op a b r d s h⟩,
    fun h => ⟨_, hexec, mdInstruction_completes _ op a b r d s (Bool.eq_false_iff.2 h)⟩⟩

theorem mdUnsettled_eq_false (hmoved : s.mdMoved = false) (hwindow : s.window ≠ .first) : s.mdUnsettled = false := by
  simp [State.mdUnsettled, hmoved, hwindow]

theorem mdSeen_settled (h : s.mdUnsettled = false) : s.mdSeen = s.md := by
  simp [State.mdSeen, h]

theorem mstart_stepsOrTraps (s : State) (b d : Reg) :
    StepsMdOrTraps (.mstart b d) d
      (if s.mdUnsettled then Config.draw s.tick .dest else if s.mdSeen.msb then 0 - s.src2 b else 0)
      (if s.mdUnsettled then Config.draw s.tick .md else s.mdSeen <<< 1)
      (s.MdTraps .mstart 0 (s.src2 b) s.mdSeen (s.mdSeen.msb = true ∧ s.src2 b = 0x80000000#32)) s := by
  rw [← mstartStep_result]
  exact stepsMdOrTraps_of_mdInstruction rfl (by simp [mstartStep_overflow])

theorem mstep_stepsOrTraps (s : State) (a b d : Reg) :
    StepsMdOrTraps (.mstep a b d) d
      (if s.mdUnsettled then Config.draw s.tick .dest
        else if s.mdSeen.msb then s.src1 a <<< 1 + s.src2 b else s.src1 a <<< 1)
      (if s.mdUnsettled then Config.draw s.tick .md else s.mdSeen <<< 1)
      (s.MdTraps .mstep (s.src1 a) (s.src2 b) s.mdSeen
        (s.mdSeen.msb = true ∧ ¬ FitsSigned ((s.src1 a <<< 1).toInt + (s.src2 b).toInt))) s := by
  rw [← mstepStep_result]
  exact stepsMdOrTraps_of_mdInstruction rfl (by simp [mstepStep_overflow])

theorem dstep_stepsOrTraps (s : State) (a b d : Reg) {r : Word}
    (hr : r = s.src1 a <<< 1 + (if s.mdSeen.msb then 1 else 0)) :
    StepsMdOrTraps (.dstep a b d) d
      (if s.mdUnsettled then Config.draw s.tick .dest else if (r - s.src2 b).msb then r else r - s.src2 b)
      (if s.mdUnsettled then Config.draw s.tick .md
        else if (r - s.src2 b).msb then s.mdSeen <<< 1 else s.mdSeen <<< 1 + 1)
      (s.MdTraps .dstep (s.src1 a) (s.src2 b) s.mdSeen False) s := by
  subst hr
  have h := stepsMdOrTraps_of_mdInstruction (s := s) (i := .dstep a b d) (op := .dstep) (d := d) (adder := False)
    (r := dstepStep (s.src1 a) (s.src2 b) s.mdSeen) rfl (by simp)
  rwa [dstepStep_eq] at h

end

/-- Settles O35: on a settled MD the three make the steps of a multiplication and of a division, or trap. -/
theorem multiplyDivideSteps : Obligations.MultiplyDivideSteps := by
  intro s a b d hmoved hwindow
  have hsettled := mdUnsettled_eq_false hmoved hwindow
  have hmd := mdSeen_settled hsettled
  refine ⟨?_, ?_, fun r hr => ?_⟩
  · simpa only [hmd, hsettled, if_neg Bool.false_ne_true] using mstart_stepsOrTraps s b d
  · simpa only [hmd, hsettled, if_neg Bool.false_ne_true] using mstep_stepsOrTraps s a b d
  · rw [← hmd] at hr
    simpa only [hmd, hsettled, if_neg Bool.false_ne_true] using dstep_stepsOrTraps s a b d hr

/-! ### The default `MD_OVF` (rules R203, R204, R220) -/

/-- With the spec's defaults and PSW.V = 0, a step instruction traps exactly if its addition overflows. -/
theorem mdTraps_default {s : State} (hV : s.psw.cur.V = false) (hovf : s.params.mdOvf = .adder)
    (hset : s.params.ovfSet = {}) (op : MdOp) (a b md : Word) (adder : Prop) :
    s.MdTraps op a b md adder ↔ adder := by
  have hin : inOvfSet {} (mdOvfInstr op) = true := by cases op <;> rfl
  simp [State.MdTraps, hV, hovf, hset, hin]

/-- Settles O36, from O35 with the trap decided by the adder alone. -/
theorem multiplyDivideOverflow : Obligations.MultiplyDivideOverflow := by
  intro s a b d hmoved hwindow hV hovf hset
  obtain ⟨hmstart, hmstep, hdstep⟩ := multiplyDivideSteps s a b d hmoved hwindow
  simp only [mdTraps_default hV hovf hset] at hmstart hmstep hdstep
  obtain ⟨hmstartTraps, hmstartSteps⟩ := hmstart
  obtain ⟨hmstepTraps, hmstepSteps⟩ := hmstep
  refine ⟨fun hmsb hb => hmstartTraps ⟨hmsb, hb⟩, fun h => hmstartSteps ?_, fun hmsb hfit => hmstepTraps ⟨hmsb, hfit⟩,
    fun h => hmstepSteps ?_, fun r hr => ?_⟩
  · rwa [not_and_or, Bool.not_eq_true]
  · rwa [not_and_or, Bool.not_eq_true, not_not]
  · obtain ⟨-, hsteps⟩ := hdstep r hr
    exact hsteps not_false

end Sys2Proof.Machine

/-! The call: `jspci`, the only jump that writes a general register (rules R95, R132, R233). -/

namespace Sys2Proof.Machine

/-! ### A register write at the end of a step with any next address (rules R132, R351) -/

/-- The end of the step that writes `link` to `d` and jumps to `target`. -/
def State.linkedJump (s : State) (d : Reg) (link target : Word) : State :=
  (s.writeGpr d link).retire { next := target }

/-- What the jump leaves, whatever address it links and goes to. -/
theorem linkedJump_spec (s : State) (d : Reg) (link target : Word) :
    WritesGpr d link s (s.linkedJump d link target) ∧ Moves target false s (s.linkedJump d link target) ∧
      KeepsSpecial s (s.linkedJump d link target) ∧ SameMemory s (s.linkedJump d link target) ∧
      LeavesShadow none (some (.gpr d)) false s (s.linkedJump d link target) :=
  ⟨writesGpr_writeGpr s d link, moves_retire s _ _ rfl rfl rfl rfl rfl, ⟨rfl, rfl, fun _ => rfl, rfl, rfl⟩,
    sameMemory_retire s _ _ rfl rfl rfl, leavesShadow_retire s _ _ (some (.gpr d)) rfl rfl rfl rfl rfl rfl⟩

/-! ### `jspci` (rule R233) -/

/-- The target is made from Src1 as it is before the link is written, which matters where Dest = Src1. -/
theorem exec_jspci (s : State) (a d : Reg) (n : BitVec 17) :
    exec (.jspci a n d) s = .next (s.linkedJump d (s.pc2.addr + 1) (s.src1 a + sext17 n)) := rfl

theorem decode_jspci (a d : Reg) (n : BitVec 17) :
    decode (packImmediate 0b000#3 a d n) = .ok (.jspci a n d) :=
  decode_of_encode rfl rfl

/-- Settles O40: the word is the encoder's, and the step is the jump that links PCcurrent + 1. -/
theorem jspciLinksAndJumps : Obligations.JspciLinksAndJumps := fun s a d n =>
  ⟨decode_jspci a d n, _, exec_jspci s a d n, linkedJump_spec s d _ _⟩

end Sys2Proof.Machine

/-! The FPU's own instructions (rules R250, R254 to R264): each is the general coprocessor instruction whose address word
is its CopI, so that what it does follows from what such a cycle does with an FPU and without one. -/

namespace Sys2Proof.Machine

/-! ### The address word of an FPU instruction (rules R114, R166) -/

section
variable (func : BitVec 6) (f g : FReg)

/-- Src1 is r0, so the CopI goes out as it is. -/
theorem effectiveAddress_zero (s : State) (c : BitVec 17) : s.effectiveAddress c 0 = sext17 c := by
  simp [State.effectiveAddress, State.src1]

/-- Sign extension leaves the fields of the CopI. -/
theorem field_sext17 (c : BitVec 17) (lo len : Nat) (hle : lo + len ≤ 17) :
    field (sext17 c) lo len = c.extractLsb' lo len := by
  apply BitVec.eq_of_getLsbD_eq
  intro i hi
  simp [field, sext17, BitVec.getElem_signExtend, hi, show lo + i < 32 by omega, show lo + i < 17 by omega]

@[simp] theorem field_sext17_fpuCopI_func : field (sext17 (fpuCopI func f g)) 8 6 = func := by
  rw [field_sext17 _ 8 6 (by decide), fpuCopI_func]

@[simp] theorem fieldFReg_sext17_fpuCopI_cs1 : fieldFReg (sext17 (fpuCopI func f g)) 4 = f := by
  rw [fieldFReg, field_sext17 _ 4 4 (by decide), fpuCopI_cs1, fregBits_toFin]

@[simp] theorem fieldFReg_sext17_fpuCopI_cs2 : fieldFReg (sext17 (fpuCopI func f g)) 0 = g := by
  rw [fieldFReg, field_sext17 _ 0 4 (by decide), fpuCopI_cs2, fregBits_toFin]

/-- COP# is 0. -/
theorem cop_sext17_fpuCopI : (sext17 (fpuCopI func f g)).toNat / 2 ^ 14 % 8 = 0 := by
  have hcop : field (sext17 (fpuCopI func f g)) 14 3 = 0#3 := by
    rw [field_sext17 _ 14 3 (by decide), fpuCopI_cop]
  simpa [field, BitVec.extractLsb'_toNat, Nat.shiftRight_eq_div_pow] using congrArg BitVec.toNat hcop

end

/-! ### The nine operations (rules R254 to R262) -/

/-- An instruction that drives the cycle of `aluc` with its CopI is the operation its function number names. -/
theorem fpuInstruction_of_aluc {i : FReg → FReg → Instr} {op : FpOp} {func : BitVec 6}
    (hop : fpOpOfFunc func = some op)
    (hexec : ∀ f g s, exec (i f g) s = .next (aluCop (sext17 (fpuCopI func f g)) s)) : FpuInstruction i op func := by
  intro s f g
  have haluc : exec (i f g) s = exec (.aluc (fpuCopI func f g) 0) s := by
    rw [hexec, ← effectiveAddress_zero s]
    rfl
  rw [haluc]
  constructor
  · intro hfpu
    obtain ⟨⟨t, ht, hfunc, hframe⟩, -⟩ := fpuReadsAddressAsDriven s (fpuCopI func f g) 0 0 hfpu
      (by rw [effectiveAddress_zero, cop_sext17_fpuCopI])
    simp only [effectiveAddress_zero, field_sext17_fpuCopI_func, hop, fieldFReg_sext17_fpuCopI_cs1,
      fieldFReg_sext17_fpuCopI_cs2] at hfunc
    obtain ⟨hwrites, hshadow⟩ := hfunc
    obtain ⟨hgprs, hproc, hcops, hmem, hgoes⟩ := hframe
    exact ⟨t, ht, hwrites, hgprs, hproc, hcops, hmem, hgoes, hshadow⟩
  · intro hnone
    obtain ⟨-, -, -, haluc⟩ := coprocessorCycles s (fpuCopI func f g) 0 0 0 (.inl hnone)
    rwa [effectiveAddress_zero] at haluc

/-- Settles O22: each of the nine is the cycle of `aluc` with its own function number. -/
theorem fpuArithmetic : Obligations.FpuArithmetic := by
  refine ⟨?_, ?_, ?_, ?_, ?_, ?_, ?_, ?_, ?_⟩
  all_goals exact fpuInstruction_of_aluc rfl fun _ _ _ => rfl

/-! ### The two moves (rules R263, R264) -/

section
variable (s : State) (r : Reg) (f : FReg)

theorem exec_movif : exec (.movif r f) s = exec (.movtoc (fpuCopI 9#6 0 f) 0 r) s := by
  rw [exec, exec, execMovtoc, effectiveAddress_zero]
  rfl

theorem exec_movfi : exec (.movfi f r) s = exec (.movfrc (fpuCopI 10#6 f 0) 0 r) s := by
  rw [exec, exec, execMovfrc, effectiveAddress_zero]
  rfl

end

/-- Settles O23: `movif` is the `movtoc` and `movfi` the `movfrc` of its CopI, which the FPU answers if there is one. -/
theorem fpuMoves : Obligations.FpuMoves := by
  intro s r f
  simp only [exec_movif, exec_movfi]
  constructor
  · intro hfpu
    obtain ⟨-, ⟨t, ht, hmovif, hgprs, hproc, hcops, hmem, hgoes⟩, -⟩ :=
      fpuReadsAddressAsDriven s (fpuCopI 9#6 0 f) 0 r hfpu (by rw [effectiveAddress_zero, cop_sext17_fpuCopI])
    obtain ⟨⟨u, hu, hundefined, huframe⟩, -, hmovfi, hzero⟩ :=
      fpuReadsAddressAsDriven s (fpuCopI 10#6 f 0) 0 r hfpu (by rw [effectiveAddress_zero, cop_sext17_fpuCopI])
    simp only [effectiveAddress_zero, field_sext17_fpuCopI_func, ← fieldFReg_eq_zero, fieldFReg_sext17_fpuCopI_cs1,
      fieldFReg_sext17_fpuCopI_cs2, and_self, if_true] at hmovif hmovfi hundefined
    refine ⟨⟨t, ht, hmovif.1, hgprs, hproc, hcops, hmem, hgoes, hmovif.2⟩, fun hr => ?_, ?_⟩
    · obtain ⟨v, hv, ⟨hfprs, hword⟩, hbut, ⟨hpsw, hmd, hparams⟩, hvcops, hvmem, hvgoes, hvshadow⟩ := hmovfi hr
      rw [if_neg hr] at hword
      exact ⟨v, hv, ⟨by rw [hword, if_neg hr], hbut⟩, ⟨hpsw, hmd, hfprs, hvcops, hparams⟩, hvmem, hvgoes, hvshadow⟩
    · obtain ⟨hugprs, huproc, hucops, humem, hugoes⟩ := huframe
      exact ⟨u, hzero.trans hu, hugprs, huproc, hucops, humem, hugoes, hundefined.2⟩
  · intro hnone
    obtain ⟨-, -, hmovif, -⟩ := coprocessorCycles s (fpuCopI 9#6 0 f) 0 r 0 (.inl hnone)
    obtain ⟨hmovfi, -⟩ := coprocessorCycles s (fpuCopI 10#6 f 0) 0 0 r (.inl hnone)
    rw [effectiveAddress_zero] at hmovif hmovfi
    refine ⟨hmovif, fun hr => ?_⟩
    simpa only [if_neg hr] using hmovfi hr

end Sys2Proof.Machine

/-! The FPU's arithmetic as far as the model fixes it (rules R253 to R262, R266): a normal number by its sign, exponent
and significand, the word the model makes of an exact value, and from these the four exact operations, the two
conversions and the integer operations. -/

namespace Sys2Proof.Machine

/-- The exact result, where the model fixes one. -/
theorem fpResult_of_exact {op : FpOp} {a b r : Word} (h : fpExact op a b = some r) : fpResult op a b = r := by
  rw [fpResult, h]

/-! ### Normal numbers by sign, exponent and significand (rule R253) -/

/-- The word with the given sign and exponent whose fraction is `sig` less its hidden bit. -/
def fpPack (neg : Bool) (exp sig : Nat) : Word :=
  BitVec.ofBool neg ++ BitVec.ofNat 8 exp ++ BitVec.ofNat 23 sig

/-- The exponent field and the significand, the hidden bit included, of a normal number. -/
structure NormalParts (exp sig : Nat) : Prop where
  exp_pos : 1 ≤ exp
  exp_le : exp ≤ 254
  le_sig : 2 ^ 23 ≤ sig
  sig_lt : sig < 2 ^ 24

/-- The significand with its sign. -/
def fpSigned (neg : Bool) (sig : Nat) : Int := if neg then -sig else sig

section
variable {neg : Bool} {exp sig : Nat}

@[simp] theorem fpSigned_natAbs : (fpSigned neg sig).natAbs = sig := by
  cases neg <;> simp [fpSigned]

theorem fpSigned_neg_iff (h : 0 < sig) : fpSigned neg sig < 0 ↔ neg = true := by
  cases neg <;> simp [fpSigned, h]

theorem fpPack_exponent : field (fpPack neg exp sig) 23 8 = BitVec.ofNat 8 exp := by
  apply BitVec.eq_of_getLsbD_eq
  intro i hi
  simp only [field, fpPack, BitVec.getLsbD_extractLsb', BitVec.getLsbD_append]
  grind

theorem fpPack_fraction : field (fpPack neg exp sig) 0 23 = BitVec.ofNat 23 sig := by
  apply BitVec.eq_of_getLsbD_eq
  intro i hi
  simp only [field, fpPack, BitVec.getLsbD_extractLsb', BitVec.getLsbD_append]
  grind

theorem fpPack_msb : (fpPack neg exp sig).msb = neg := by
  rw [BitVec.msb_eq_getLsbD_last, fpPack, BitVec.getLsbD_append, BitVec.getLsbD_append]
  simp

/-- A word is what its three fields make. -/
theorem fpPack_fields (w : Word) : fpPack w.msb (field w 23 8).toNat (2 ^ 23 + (field w 0 23).toNat) = w := by
  have hfrac : BitVec.ofNat 23 (2 ^ 23 + (field w 0 23).toNat) = field w 0 23 := by
    apply BitVec.eq_of_toNat_eq
    rw [BitVec.toNat_ofNat, Nat.add_mod_left, Nat.mod_eq_of_lt (field w 0 23).isLt]
  rw [fpPack, hfrac, BitVec.ofNat_toNat, BitVec.setWidth_eq]
  apply BitVec.eq_of_getLsbD_eq
  intro i hi
  have htop : i - 31 = 0 := by omega
  simp only [field, BitVec.msb_eq_getLsbD_last, BitVec.getLsbD_extractLsb', BitVec.getLsbD_append,
    BitVec.getLsbD_ofBool]
  grind

theorem fpNormal_fpPack (h : NormalParts exp sig) :
    fpNormal (fpPack neg exp sig) = some (fpSigned neg sig, (exp : Int) - 150) := by
  obtain ⟨hpos, hle, hlow, hhigh⟩ := h
  have hexp : (BitVec.ofNat 8 exp).toNat = exp := by simp; omega
  have hsig : (2 : Int) ^ 23 + (BitVec.ofNat 23 sig).toNat = sig := by simp; omega
  simp only [fpNormal, fpPack_exponent, fpPack_fraction, fpPack_msb, hexp, hsig, hpos, hle, and_self, if_true, fpSigned]

/-- The normal numbers of the claims, by their parts. -/
theorem FpValue.parts {w : Word} {q : Rat} (h : FpValue w q) :
    ∃ neg exp sig, NormalParts exp sig ∧ w = fpPack neg exp sig ∧
      q = fpSigned neg sig * 2 ^ ((exp : Int) - 150) := by
  obtain ⟨hpos, hle, hq⟩ := h
  have hfrac := (field w 0 23).isLt
  refine ⟨w.msb, (field w 23 8).toNat, 2 ^ 23 + (field w 0 23).toNat, ⟨hpos, hle, by omega, by omega⟩,
    (fpPack_fields w).symm, ?_⟩
  have hscale : (2 : Rat) ^ (((field w 23 8).toNat : Int) - 127) =
      2 ^ (((field w 23 8).toNat : Int) - 150) * 2 ^ 23 := by
    rw [← zpow_natCast, ← zpow_add₀ two_ne_zero]
    congr 1
    omega
  rw [hq, hscale, BitVec.msb_eq_getLsbD_last]
  cases w.getLsbD 31 <;> simp [fpSigned] <;> ring

end

/-! ### Integers scaled by powers of two -/

/-- Equal values with scales that differ by `i - j` are equal once scaled to integers. -/
theorem mul_pow_eq_of_scaled_eq {a b e f : Int} {i j : Nat} (h : (a : Rat) * 2 ^ e = b * 2 ^ f) (hij : e + j = f + i) :
    a * 2 ^ i = b * 2 ^ j := by
  have hi : (2 : Rat) ^ i = 2 ^ e * 2 ^ (i - e : Int) := by
    rw [← zpow_add₀ two_ne_zero, add_sub_cancel, zpow_natCast]
  have hj : (2 : Rat) ^ j = 2 ^ f * 2 ^ (i - e : Int) := by
    rw [← zpow_add₀ two_ne_zero, ← zpow_natCast]
    congr 1
    omega
  have hrat : (a : Rat) * 2 ^ i = b * 2 ^ j := by rw [hi, hj, ← mul_assoc, h, mul_assoc]
  exact_mod_cast hrat

/-- The place of the leading one of a value is at most that of an equal value. -/
theorem log2_add_le_of_scaled_eq {a b : Nat} {e f : Int} (ha : a ≠ 0) (h : (a : Rat) * 2 ^ e = b * 2 ^ f) :
    (a.log2 : Int) + e ≤ b.log2 + f := by
  have hlow : (2 : Rat) ^ a.log2 ≤ a := by exact_mod_cast Nat.log2_self_le ha
  have hhigh : (b : Rat) < 2 ^ (b.log2 + 1) := by exact_mod_cast Nat.lt_log2_self
  have hlt : (2 : Rat) ^ ((a.log2 : Int) + e) < 2 ^ (((b.log2 + 1 : Nat) : Int) + f) := by
    calc (2 : Rat) ^ ((a.log2 : Int) + e) = 2 ^ a.log2 * 2 ^ e := by rw [zpow_add₀ two_ne_zero, zpow_natCast]
      _ ≤ a * 2 ^ e := by gcongr
      _ = b * 2 ^ f := h
      _ < 2 ^ (b.log2 + 1) * 2 ^ f := by gcongr
      _ = 2 ^ (((b.log2 + 1 : Nat) : Int) + f) := by rw [zpow_add₀ two_ne_zero, zpow_natCast]
  have := (zpow_lt_zpow_iff_right₀ one_lt_two).1 hlt
  omega

/-- The magnitudes of equal values are equal. -/
theorem natAbs_scaled_eq {a b e f : Int} (h : (a : Rat) * 2 ^ e = b * 2 ^ f) :
    (a.natAbs : Rat) * 2 ^ e = b.natAbs * 2 ^ f := by
  have := congrArg abs h
  simpa [abs_mul, Nat.cast_natAbs] using this

/-- Equal values have the same sign. -/
theorem neg_iff_of_scaled_eq {a b e f : Int} (h : (a : Rat) * 2 ^ e = b * 2 ^ f) : a < 0 ↔ b < 0 := by
  have hsign : (a : Rat) * 2 ^ e < 0 ↔ (b : Rat) * 2 ^ f < 0 := by rw [h]
  simpa [mul_neg_iff, zpow_pos, (zpow_pos (two_pos : (0 : Rat) < 2) _).le.not_gt] using hsign

/-! ### The word of an exact value -/

theorem NormalParts.log2_sig {exp sig : Nat} (h : NormalParts exp sig) : sig.log2 = 23 :=
  (Nat.log2_eq_iff (by have := h.le_sig; omega)).2 ⟨h.le_sig, h.sig_lt⟩

/-- Whatever scale an exact value is given in, the model finds the normal number that has it. -/
theorem fpOfExact_of_parts {neg : Bool} {exp sig : Nat} {m e : Int} (h : NormalParts exp sig)
    (hv : (m : Rat) * 2 ^ e = fpSigned neg sig * 2 ^ ((exp : Int) - 150)) :
    fpOfExact m e = some (fpPack neg exp sig) := by
  obtain ⟨hpos, hle, hlow, hhigh⟩ := id h
  have hsign : decide (m < 0) = neg := by
    rw [Bool.eq_iff_iff, decide_eq_true_eq, neg_iff_of_scaled_eq hv, fpSigned_neg_iff (by omega)]
  have habs := natAbs_scaled_eq hv
  rw [fpSigned_natAbs] at habs
  have hm : m.natAbs ≠ 0 := by
    intro h0
    simp [h0, (zpow_pos (two_pos : (0 : Rat) < 2) _).ne'] at habs
    omega
  have htop : (m.natAbs.log2 : Int) + e = exp - 127 := by
    have h1 := log2_add_le_of_scaled_eq hm habs
    have h2 := log2_add_le_of_scaled_eq (by omega) habs.symm
    rw [h.log2_sig] at h1 h2
    omega
  have hsig : m.natAbs * 2 ^ (23 - m.natAbs.log2) = sig * 2 ^ (m.natAbs.log2 - 23) := by
    refine Int.natCast_inj.1 ?_
    push_cast [-Int.natCast_natAbs]
    exact mul_pow_eq_of_scaled_eq (e := e) (f := (exp : Int) - 150) habs (by omega)
  have hbiased : e + (m.natAbs.log2 : Int) + 127 = exp := by omega
  simp only [fpOfExact, hbiased, hsign, Int.toNat_natCast, fpPack]
  generalize m.natAbs.log2 = t at *
  by_cases ht : t ≤ 23
  · rw [Nat.sub_eq_zero_of_le ht, pow_zero, mul_one] at hsig
    rw [if_pos ⟨hm, .inl ht, by omega, by omega⟩, if_pos ht, hsig]
  · rw [Nat.sub_eq_zero_of_le (by omega : 23 ≤ t), pow_zero, mul_one] at hsig
    rw [if_neg ht, if_pos ⟨hm, .inr (by rw [hsig, Nat.mul_mod_left]), by omega, by omega⟩]
    rw [hsig, Nat.mul_div_cancel _ (by positivity)]

/-- A normal number comes out of every integer and scale that have its value. -/
theorem FpValue.fpOfExact_eq {c : Word} {z : Rat} {m e : Int} (hc : FpValue c z) (hv : (m : Rat) * 2 ^ e = z) :
    fpOfExact m e = some c := by
  obtain ⟨neg, exp, sig, hparts, rfl, rfl⟩ := hc.parts
  exact fpOfExact_of_parts hparts hv

/-- The integer and the scale that the model reads from a normal number have its value, and the integer has 24 bits. -/
theorem FpValue.fpNormal_eq {w : Word} {q : Rat} (h : FpValue w q) :
    ∃ m e : Int, fpNormal w = some (m, e) ∧ q = m * 2 ^ e ∧ 2 ^ 23 ≤ m.natAbs ∧ m.natAbs < 2 ^ 24 := by
  obtain ⟨neg, exp, sig, hparts, rfl, rfl⟩ := h.parts
  exact ⟨_, _, fpNormal_fpPack hparts, rfl, by simpa using hparts.le_sig, by simpa using hparts.sig_lt⟩

/-! ### The four exact operations (rules R254 to R257) -/

theorem fpExactBinary_of_normal {op : Int → Int → Int → Int → Option Word} {a b : Word} {m e n f : Int}
    (ha : fpNormal a = some (m, e)) (hb : fpNormal b = some (n, f)) : fpExactBinary op a b = op m e n f := by
  rw [fpExactBinary, ha, hb]

section
variable {c : Word} {z : Rat} {m e n f : Int} (hc : FpValue c z)
include hc

theorem fpAddExact_eq (hz : (m : Rat) * 2 ^ e + n * 2 ^ f = z) : fpAddExact m e n f = some c := by
  refine hc.fpOfExact_eq ?_
  have hscale : ∀ k : Int, min e f ≤ k → (2 : Rat) ^ (k - min e f).toNat * 2 ^ min e f = 2 ^ k := fun k hk => by
    rw [← zpow_natCast, ← zpow_add₀ two_ne_zero, Int.toNat_of_nonneg (by omega), sub_add_cancel]
  push_cast
  rw [add_mul, mul_assoc, mul_assoc, hscale e (min_le_left e f), hscale f (min_le_right e f), hz]

theorem fpMulExact_eq (hz : (m : Rat) * 2 ^ e * (n * 2 ^ f) = z) : fpMulExact m e n f = some c := by
  refine hc.fpOfExact_eq ?_
  rw [← hz, zpow_add₀ two_ne_zero]
  push_cast
  ring

/-- 24 more bits of the dividend are enough: the quotient of two 24-bit integers is above 1/2, so that none of the 24 bits
of an exact one is below 2^-24. -/
theorem dvd_of_normal_quotient (hz : (m : Rat) * 2 ^ e / (n * 2 ^ f) = z) (hm : 2 ^ 23 ≤ m.natAbs)
    (hn : 2 ^ 23 ≤ n.natAbs) (hn' : n.natAbs < 2 ^ 24) : n ∣ m * 2 ^ 24 := by
  obtain ⟨neg, exp, sig, hparts, -, rfl⟩ := hc.parts
  obtain ⟨-, -, hlow, hhigh⟩ := hparts
  have hn0 : (n : Rat) ≠ 0 := Int.cast_ne_zero.2 (by omega)
  have hprod : (m : Rat) * 2 ^ e = (n * fpSigned neg sig : Int) * 2 ^ (f + ((exp : Int) - 150)) := by
    rw [div_eq_iff (mul_ne_zero hn0 (zpow_ne_zero _ two_ne_zero))] at hz
    rw [hz, zpow_add₀ two_ne_zero]
    push_cast
    ring
  have hbits : (n * fpSigned neg sig).natAbs.log2 < 48 := by
    rw [Int.natAbs_mul, fpSigned_natAbs, Nat.log2_lt (mul_ne_zero (by omega) (by omega))]
    calc n.natAbs * sig < 2 ^ 24 * 2 ^ 24 := Nat.mul_lt_mul'' hn' hhigh
      _ = 2 ^ 48 := by norm_num
  have htop : (23 : Int) ≤ m.natAbs.log2 := by exact_mod_cast (Nat.le_log2 (by omega)).2 hm
  have hscale := log2_add_le_of_scaled_eq (by omega) (natAbs_scaled_eq hprod)
  have := mul_pow_eq_of_scaled_eq (i := 24) (j := (f + (exp - 150) + 24 - e).toNat) hprod (by omega)
  exact ⟨_, this.trans (mul_assoc _ _ _)⟩

theorem fpDivExact_eq (hz : (m : Rat) * 2 ^ e / (n * 2 ^ f) = z) (hm : 2 ^ 23 ≤ m.natAbs) (hn : 2 ^ 23 ≤ n.natAbs)
    (hn' : n.natAbs < 2 ^ 24) : fpDivExact m e n f = some c := by
  have hdvd := dvd_of_normal_quotient hc hz hm hn hn'
  have hn0 : (n : Rat) ≠ 0 := Int.cast_ne_zero.2 (by omega)
  rw [fpDivExact, if_pos (Int.emod_eq_zero_of_dvd hdvd)]
  refine hc.fpOfExact_eq ?_
  rw [← hz, Int.cast_div hdvd hn0, zpow_sub₀ two_ne_zero, zpow_sub₀ two_ne_zero]
  push_cast
  field_simp

end

/-- Settles O26: operands give integers and scales, and the exact result over these is the word of its value. -/
theorem fpArithmeticExact : Obligations.FpArithmeticExact := by
  intro a b c x y z ha hb hc
  obtain ⟨m, e, hna, rfl, hm, -⟩ := ha.fpNormal_eq
  obtain ⟨n, f, hnb, rfl, hn, hn'⟩ := hb.fpNormal_eq
  refine ⟨fun hz => ?_, fun hz => ?_, fun hz => ?_, fun hz => ?_⟩ <;>
    refine fpResult_of_exact ((fpExactBinary_of_normal hna hnb).trans ?_)
  · exact fpAddExact_eq hc hz
  · exact fpAddExact_eq hc (by rw [← hz]; push_cast; ring)
  · exact fpMulExact_eq hc hz
  · exact fpDivExact_eq hc hz hm hn hn'

/-! ### Integers and the two conversions (rules R258, R259) -/

theorem fpInteger_of_lt {w : Word} (h : w.toNat < 2 ^ 31) : fpInteger w = some w.toNat := if_pos h

theorem fpOfInteger_of_lt {n : Nat} (h : n < 2 ^ 31) : fpOfInteger n = some (BitVec.ofNat 32 n) := if_pos h

/-- An integer below 2^31 comes back from its word. -/
theorem fpOfInteger_toNat {w : Word} (h : w.toNat < 2 ^ 31) : fpOfInteger w.toNat = some w := by
  rw [fpOfInteger_of_lt h, BitVec.ofNat_toNat, BitVec.setWidth_eq]

/-- A positive integer with leading bit `t` at most 23 is the significand it makes when shifted up to 24 bits. -/
theorem normalParts_of_integer {n : Nat} (hpos : n ≠ 0) (hlt : n < 2 ^ 24) :
    NormalParts (n.log2 + 127) (n * 2 ^ (23 - n.log2)) := by
  have htop : n.log2 < 24 := (Nat.log2_lt hpos).2 hlt
  have hlow := Nat.mul_le_mul_right (2 ^ (23 - n.log2)) (Nat.log2_self_le hpos)
  have hhigh := Nat.mul_lt_mul_of_pos_right (Nat.lt_log2_self (n := n)) (Nat.two_pow_pos (23 - n.log2))
  rw [← pow_add] at hlow hhigh
  rw [show n.log2 + (23 - n.log2) = 23 by omega] at hlow
  rw [show n.log2 + 1 + (23 - n.log2) = 24 by omega] at hhigh
  exact ⟨by omega, by omega, hlow, hhigh⟩

/-- The normal number of a positive integer of at most 24 bits. -/
def fpOfNat (n : Nat) : Word := fpPack false (n.log2 + 127) (n * 2 ^ (23 - n.log2))

section
variable {n : Nat} (hpos : n ≠ 0) (hlt : n < 2 ^ 24)
include hpos hlt

/-- The scale of that significand undoes the shift. -/
theorem scale_of_integer : ((n.log2 + 127 : Nat) : Int) - 150 = -((23 - n.log2 : Nat) : Int) := by
  have htop : n.log2 < 24 := (Nat.log2_lt hpos).2 hlt
  omega

theorem fpNormal_fpOfNat :
    fpNormal (fpOfNat n) = some ((n : Int) * 2 ^ (23 - n.log2), -((23 - n.log2 : Nat) : Int)) := by
  rw [fpOfNat, fpNormal_fpPack (normalParts_of_integer hpos hlt), scale_of_integer hpos hlt]
  simp [fpSigned]

theorem fpOfExact_natCast : fpOfExact n 0 = some (fpOfNat n) := by
  refine fpOfExact_of_parts (normalParts_of_integer hpos hlt) ?_
  rw [scale_of_integer hpos hlt, zpow_neg, zpow_natCast]
  simp [fpSigned]

end

/-- The integer part is found without a remainder where the significand is an integer shifted up. -/
theorem fpToInteger_of_normal {w : Word} {n k : Nat} (hw : fpNormal w = some ((n : Int) * 2 ^ k, -(k : Int))) :
    fpToInteger w = fpOfInteger n := by
  have hsig : ((n : Int) * 2 ^ k).toNat = n * 2 ^ k := by
    rw [← Int.toNat_natCast (n * 2 ^ k)]
    push_cast
    rfl
  have hnonneg : (0 : Int) ≤ (n : Int) * 2 ^ k := by positivity
  simp only [fpToInteger, hw, hsig, if_pos hnonneg, neg_neg, Int.toNat_natCast, Nat.mul_mod_left, if_true,
    Nat.mul_div_cancel _ (Nat.two_pow_pos k)]
  split
  · next hk =>
    have : k = 0 := by omega
    simp [this]
  · rfl

/-- Settles O27: the integer shifted up to 24 bits is the significand, which the conversion back shifts down again. -/
theorem fpConversionRoundTrip : Obligations.FpConversionRoundTrip := by
  intro n b c hpos hlt
  have hn : n.toNat < 2 ^ 31 := by omega
  have hto : fpResult .cvtif n b = fpOfNat n.toNat :=
    fpResult_of_exact (by rw [fpExact, fpInteger_of_lt hn]; exact fpOfExact_natCast hpos.ne' hlt)
  have hnormal := fpNormal_fpOfNat hpos.ne' hlt
  have hback : fpExact .cvtfi (fpOfNat n.toNat) c = some n :=
    (fpToInteger_of_normal hnormal).trans (fpOfInteger_toNat hn)
  rw [hto]
  refine ⟨fpResult_of_exact hback, _, _, hnormal, ?_⟩
  have htop : n.toNat.log2 < 24 := (Nat.log2_lt hpos.ne').2 hlt
  rw [mul_assoc, ← pow_add]
  congr 2
  omega

/-! ### The integer operations (rules R260 to R262) -/

/-- An operation on two integers below 2^31 is that of the model on their values. -/
theorem fpIntegers_bind {a b : Word} (ha : a.toNat < 2 ^ 31) (hb : b.toNat < 2 ^ 31) (g : Nat → Nat → Option Word) :
    ((fpInteger a).bind fun m => (fpInteger b).bind fun n => g m n) = g a.toNat b.toNat := by
  rw [fpInteger_of_lt ha, fpInteger_of_lt hb]
  rfl

/-- Settles O28: each result is the word of the operation on the integers, which is below 2^31. -/
theorem fpIntegerOperations : Obligations.FpIntegerOperations := by
  intro a b ha hb
  have hnonzero : b ≠ 0 → b.toNat ≠ 0 := fun h h0 => h (BitVec.eq_of_toNat_eq h0)
  refine ⟨fun hprod => ?_, fun hb0 hrem => ?_, fun hb0 => ?_⟩ <;>
    refine fpResult_of_exact ((fpIntegers_bind ha hb _).trans ?_)
  · have hmul : (a * b).toNat = a.toNat * b.toNat := BitVec.toNat_mul_of_lt (by omega)
    rw [← hmul]
    exact fpOfInteger_toNat (by omega)
  · have hmod : a.toNat % b.toNat = 0 := by rw [← BitVec.toNat_umod, hrem]; rfl
    rw [if_pos ⟨hnonzero hb0, hmod⟩, ← BitVec.toNat_udiv]
    exact fpOfInteger_toNat (lt_of_le_of_lt (Nat.div_le_self _ _) ha)
  · rw [if_pos (hnonzero hb0), ← BitVec.toNat_umod]
    exact fpOfInteger_toNat (lt_of_le_of_lt (Nat.mod_le _ _) ha)

/-! ### The printed results (rules R254, R255, R258) -/

/-- Settles O25: the exact results, evaluated. -/
theorem fpPrintedExamples : Obligations.FpPrintedExamples :=
  ⟨fpResult_of_exact (by decide), fpResult_of_exact (by decide), fun _ => fpResult_of_exact (by rfl),
    fun _ => fpResult_of_exact (by rfl)⟩

end Sys2Proof.Machine

/-! The routines of multiplication and division: the step instructions one after another outside the hazard shadows,
with PSW.V = 1, so that none traps (rules R202 to R204, R271, R273). -/

namespace Sys2Proof.Machine

/-! ### The same instruction over and over -/

/-- A property of the state and of the number of steps made, kept by one more step as long as there are fewer than
`last`, holds at the last. -/
theorem completes_execAll_replicate {P : Nat → State → Prop} {i : Instr} {last : Nat}
    (hstep : ∀ n u, n < last → P n u → Completes (exec i u) (P (n + 1)))
    {count n : Nat} (hcount : n + count = last) {s : State} (hs : P n s) :
    Completes (execAll (List.replicate count i) s) (P last) := by
  induction count generalizing n s with
  | zero => exact completes_execAll_nil (hcount ▸ hs)
  | succ count ih =>
    exact completes_execAll_cons (hstep n s (by omega) hs) fun u hu => ih (by omega) hu

/-! ### A run of step instructions on one register and MD -/

/-- No hazard shadow is open and overflow traps are masked. -/
structure State.StepsQuiet (s : State) : Prop where
  noLoads : s.NoLoadShadow
  closed : s.window = .closed
  settled : s.mdMoved = false
  masked : s.psw.cur.V = true

/-- A run of step instructions from `s` has come to `u`: `acc` is in `d` and `md` in MD, all else that the routines
speak of is as in `s`. -/
structure MdRun (d : Reg) (s : State) (acc md : Word) (u : State) : Prop where
  quiet : u.StepsQuiet
  acc : u.gpr d = acc
  md : u.md = md
  gprs : SameGprsBut d s u
  psw : SamePsw s u
  memory : SameMemory s u

theorem State.StepsQuiet.mdRun {s : State} (h : s.StepsQuiet) (d : Reg) : MdRun d s (s.gpr d) s.md s :=
  ⟨h, rfl, rfl, fun _ _ => rfl, rfl, fun _ => rfl, rfl, rfl⟩

theorem State.StepsQuiet.window_ne_first {s : State} (h : s.StepsQuiet) : s.window ≠ .first := by
  simp [h.closed]

theorem State.StepsQuiet.src1_eq {s : State} (h : s.StepsQuiet) (r : Reg) : s.src1 r = s.gpr r :=
  s.readGpr_eq .src1 r (h.noLoads _) h.closed

theorem State.StepsQuiet.src2_eq {s : State} (h : s.StepsQuiet) (r : Reg) : s.src2 r = s.gpr r :=
  s.readGpr_eq .src2 r (h.noLoads _) h.closed

theorem State.StepsQuiet.not_mdTraps {s : State} (h : s.StepsQuiet) {op : MdOp} {a b md : Word} {adder : Prop} :
    ¬ s.MdTraps op a b md adder := by
  simp [State.MdTraps, h.masked]

section
variable {s u : State} {d b : Reg} {acc md : Word}

/-- A step instruction that writes `d` takes the run one step on. -/
theorem MdRun.step (h : MdRun d s acc md u) (hd : d ≠ 0) {i : Instr} {acc' md' : Word}
    (hstep : StepsMd i d acc' md' u) : Completes (exec i u) (MdRun d s acc' md') := by
  obtain ⟨t, ht, ⟨hacc, hgprs⟩, hmd, hpsw, -, -, -, hmem, -, hshadow⟩ := hstep
  have ⟨_, hmoved, hwindow, _⟩ := hshadow
  have hquiet : t.StepsQuiet :=
    ⟨noLoadShadow_of_leavesShadow hshadow h.quiet.noLoads, by rw [hwindow, h.quiet.closed]; rfl, hmoved,
      by rw [hpsw, h.quiet.masked]⟩
  exact ⟨t, ht, hquiet, hacc.trans (if_neg hd), hmd, fun r hr => (hgprs r hr).trans (h.gprs r hr), hpsw.trans h.psw,
    h.memory.trans hmem⟩

theorem MdRun.src1_eq (h : MdRun d s acc md u) : u.src1 d = acc := (h.quiet.src1_eq d).trans h.acc

theorem MdRun.src2_eq (h : MdRun d s acc md u) (hb : b ≠ d) : u.src2 b = s.gpr b :=
  (h.quiet.src2_eq b).trans (h.gprs b hb)

theorem MdRun.mstart (h : MdRun d s acc md u) (hb : b ≠ d) (hd : d ≠ 0) :
    Completes (exec (.mstart b d) u) (MdRun d s (if md.msb then 0 - s.gpr b else 0) (md <<< 1)) := by
  obtain ⟨⟨-, hsteps⟩, -⟩ := multiplyDivideSteps u d b d h.quiet.settled h.quiet.window_ne_first
  rw [h.src2_eq hb, h.md] at hsteps
  exact h.step hd (hsteps h.quiet.not_mdTraps)

theorem MdRun.mstep (h : MdRun d s acc md u) (hb : b ≠ d) (hd : d ≠ 0) :
    Completes (exec (.mstep d b d) u)
      (MdRun d s (if md.msb then acc <<< 1 + s.gpr b else acc <<< 1) (md <<< 1)) := by
  obtain ⟨-, ⟨-, hsteps⟩, -⟩ := multiplyDivideSteps u d b d h.quiet.settled h.quiet.window_ne_first
  rw [h.src1_eq, h.src2_eq hb, h.md] at hsteps
  exact h.step hd (hsteps h.quiet.not_mdTraps)

theorem MdRun.dstep (h : MdRun d s acc md u) (hb : b ≠ d) (hd : d ≠ 0) {r : Word}
    (hr : r = acc <<< 1 + (if md.msb then 1 else 0)) :
    Completes (exec (.dstep d b d) u) (MdRun d s (if (r - s.gpr b).msb then r else r - s.gpr b)
      (if (r - s.gpr b).msb then md <<< 1 else md <<< 1 + 1)) := by
  obtain ⟨-, -, hdstep⟩ := multiplyDivideSteps u d b d h.quiet.settled h.quiet.window_ne_first
  rw [h.src1_eq, h.src2_eq hb, h.md] at hdstep
  obtain ⟨-, hsteps⟩ := hdstep r hr
  exact h.step hd (hsteps h.quiet.not_mdTraps)

end

/-! ### Multiplication (rules R203, R204, R271) -/

/-- What `n` steps of the multiplication leave in Dest: the multiplicand times the top `n` bits of the multiplier, as a
signed number. -/
def partialProduct (b md : Word) (n : Nat) : Word := b * md.sshiftRight (32 - n)

section
variable (b md : Word)

/-- The multiplier's sign bit counts negatively. -/
theorem partialProduct_one : partialProduct b md 1 = if md.msb then 0 - b else 0 := by
  have hlow := md.le_toInt
  have hhigh := md.toInt_lt
  have hsign : md.sshiftRight 31 = if md.msb then -1 else 0 := by
    rw [← BitVec.toInt_inj, BitVec.toInt_sshiftRight, Int.shiftRight_eq_div_pow, BitVec.msb_eq_toInt]
    by_cases hneg : md.toInt < 0 <;> simp [hneg] <;> omega
  rw [partialProduct, hsign]
  split
  · rw [mul_neg_one, zero_sub]
  · rw [mul_zero]

theorem partialProduct_all : partialProduct b md 32 = b * md := by
  simp [partialProduct]

/-- The top `n + 1` bits of a word are its top `n` bits, doubled, and the next bit. -/
theorem topBits_succ {n : Nat} (hn : n < 32) :
    md.sshiftRight (32 - (n + 1)) = md.sshiftRight (32 - n) <<< 1 + (if md.getMsbD n then 1 else 0) := by
  rw [← shiftLeft_one_or_bit, BitVec.getMsbD_eq_getLsbD, decide_eq_true hn]
  ext i hi
  cases i with
  | zero => simp [BitVec.getElem_sshiftRight, BitVec.getLsbD_eq_getElem, show 31 - n < 32 by omega]
  | succ i => simp [BitVec.getElem_sshiftRight, show 31 - n + (i + 1) = 32 - n + i by omega]

theorem partialProduct_succ {n : Nat} (hn : n < 32) :
    partialProduct b md (n + 1) =
      if (md <<< n).msb then partialProduct b md n <<< 1 + b else partialProduct b md n <<< 1 := by
  have hdouble (x : Word) : x <<< 1 = x * 2 := BitVec.shiftLeft_eq_mul_twoPow x 1
  rw [partialProduct, topBits_succ md hn, BitVec.msb_shiftLeft, partialProduct, hdouble, hdouble]
  split <;> ring

end

/-- Settles O38: after `n` steps Dest holds the partial product and MD the rest of the multiplier. -/
theorem multiplicationRoutine : Obligations.MultiplicationRoutine := by
  intro s b d hbd hd hloads hclosed hsettled hmasked
  have hstart := (State.StepsQuiet.mdRun ⟨hloads, hclosed, hsettled, hmasked⟩ d).mstart hbd hd
  rw [← partialProduct_one] at hstart
  refine completes_execAll_cons hstart fun u hu => ?_
  obtain ⟨t, ht, hrun⟩ := completes_execAll_replicate
    (P := fun n => MdRun d s (partialProduct (s.gpr b) s.md n) (s.md <<< n)) (last := 32)
    (fun n v hn hv => by
      rw [partialProduct_succ _ _ hn, BitVec.shiftLeft_add]
      exact hv.mstep hbd hd) (count := 31) rfl hu
  exact ⟨t, ht, by rw [hrun.acc, partialProduct_all], by rw [hrun.md]; simp, hrun.gprs, hrun.psw, hrun.memory⟩

/-! ### Division (rules R202, R273) -/

section
variable {r b md : Word}

/-- The step's shift doubles the remainder and MD as one two-word number. -/
theorem shiftPair_toNat (hr : r.toNat < 2 ^ 31) :
    (r <<< 1 + (if md.msb then 1 else 0)).toNat * 2 ^ 32 + (md <<< 1).toNat =
      2 * (r.toNat * 2 ^ 32 + md.toNat) := by
  have hmd := md.isLt
  have hzero : (0 : Word).toNat = 0 := rfl
  have hone : (1 : Word).toNat = 1 := rfl
  simp only [BitVec.toNat_add, BitVec.toNat_shiftLeft, Nat.shiftLeft_eq, BitVec.msb_eq_decide, decide_eq_true_eq,
    apply_ite BitVec.toNat, hzero, hone]
  split <;> omega

/-- A word shifted left has room for one more bit. -/
theorem toNat_shiftLeft_one_add_one : (md <<< 1 + 1).toNat = (md <<< 1).toNat + 1 := by
  have hone : (1 : Word).toNat = 1 := rfl
  rw [BitVec.toNat_add, BitVec.toNat_shiftLeft, Nat.shiftLeft_eq, hone]
  omega

/-- The sign of the difference says whether the divisor still fits. -/
theorem msb_sub_iff_lt (hb : b.toNat < 2 ^ 31) (hr : r.toNat < b.toNat + 2 ^ 31) :
    (r - b).msb = true ↔ r.toNat < b.toNat := by
  have hlt := r.isLt
  rw [BitVec.msb_eq_decide, BitVec.toNat_sub, decide_eq_true_eq]
  omega

end

/-- What `n` steps of the division of `a` by `b` have made of the remainder and MD, as one two-word number: `a` shifted
left by `n`, where for each quotient bit in `q` the divisor has been taken from the remainder and a 1 put into MD. With
divisor 0 each quotient bit is 1. -/
structure Dividing (a b : Nat) (n q r md : Nat) : Prop where
  pair : r * 2 ^ 32 + md + q * b * 2 ^ 32 = a * 2 ^ n + q
  digits : q < 2 ^ n
  rem : b ≠ 0 → r < b
  ones : b = 0 → q + 1 = 2 ^ n

theorem dividing_zero {a b : Nat} : Dividing a b 0 0 0 a := ⟨by omega, by simp, by omega, by simp⟩

section
variable {a b n q r md : Nat}

/-- The partial remainder never exceeds the dividend. -/
theorem Dividing.rem_le (h : Dividing a b n q r md) (hn : n ≤ 32) : r ≤ a := by
  have hpow : 2 ^ n ≤ 2 ^ 32 := Nat.pow_le_pow_right (by omega) hn
  have hscale : a * 2 ^ n ≤ a * 2 ^ 32 := Nat.mul_le_mul_left a hpow
  have hpair := h.pair
  have hdigits := h.digits
  generalize a * 2 ^ n = scaled at hpair hscale
  omega

section
variable {r' md' : Nat} (h : Dividing a b n q r md) (hpair : r' * 2 ^ 32 + md' = 2 * (r * 2 ^ 32 + md))
include h hpair

theorem Dividing.restore (hlt : r' < b) : Dividing a b (n + 1) (2 * q) r' md' := by
  obtain ⟨hp, hq, -, hones⟩ := h
  refine ⟨?_, ?_, fun _ => hlt, fun h0 => by omega⟩
  · rw [pow_succ 2 n]; linarith
  · rw [pow_succ 2 n]; omega

theorem Dividing.subtract (hdouble : b ≠ 0 → r' < 2 * b) (hle : b ≤ r') :
    Dividing a b (n + 1) (2 * q + 1) (r' - b) (md' + 1) := by
  obtain ⟨hp, hq, hrem, hones⟩ := h
  refine ⟨?_, ?_, fun h0 => ?_, fun h0 => ?_⟩
  · obtain ⟨x, rfl⟩ := Nat.exists_eq_add_of_le hle
    rw [pow_succ 2 n, Nat.add_sub_cancel_left]
    linarith
  · rw [pow_succ 2 n]; omega
  · have := hdouble h0
    omega
  · have := hones h0
    rw [pow_succ 2 n]; omega

end

theorem Dividing.quotient_and_remainder (h : Dividing a b 32 q r md) (hmd : md < 2 ^ 32) :
    md = q ∧ a = q * b + r := by
  obtain ⟨hp, hq, -, -⟩ := h
  generalize q * b = taken at *
  omega

/-- All 32 quotient bits stand in MD at the end, with the remainder below the divisor if there is one. -/
theorem Dividing.last (h : Dividing a b 32 q r md) (hmd : md < 2 ^ 32) :
    (b ≠ 0 → md = a / b ∧ r = a % b) ∧ (b = 0 → md = 2 ^ 32 - 1 ∧ r = a) := by
  obtain ⟨rfl, ha⟩ := h.quotient_and_remainder hmd
  refine ⟨fun hb => ?_, fun hb => ?_⟩
  · have hsum : r + b * md = a := by rw [ha]; ring
    obtain ⟨hquot, hmod⟩ := (Nat.div_mod_unique (Nat.pos_of_ne_zero hb)).2 ⟨hsum, h.rem hb⟩
    exact ⟨hquot.symm, hmod.symm⟩
  · have hones := h.ones hb
    rw [hb, mul_zero, zero_add] at ha
    exact ⟨by omega, ha.symm⟩

end

section
variable {a n q : Nat} {b acc md r : Word} (h : Dividing a b.toNat n q acc.toNat md.toNat) (hn : n < 32)
  (ha : a < 2 ^ 31) (hr : r = acc <<< 1 + (if md.msb then 1 else 0))
include h hn ha hr

/-- A step subtracts less than 2^31 more than the divisor, so that the sign of the difference decides. -/
theorem Dividing.shifted_bounds :
    (b.toNat ≠ 0 → r.toNat < 2 * b.toNat) ∧ (b.toNat = 0 → r.toNat ≤ a) ∧
      r.toNat * 2 ^ 32 + (md <<< 1).toNat = 2 * (acc.toNat * 2 ^ 32 + md.toNat) := by
  have hpair := shiftPair_toNat (md := md) (lt_of_le_of_lt (h.rem_le hn.le) ha)
  rw [← hr] at hpair
  have hdouble : b.toNat ≠ 0 → r.toNat < 2 * b.toNat := fun hb => by
    have := h.rem hb
    have := md.isLt
    omega
  refine ⟨hdouble, fun hb => ?_, hpair⟩
  have := (h.subtract hpair hdouble (by omega)).rem_le hn
  omega

/-- The step of the instruction is the step of the division. -/
theorem Dividing.dstep (hb : b.toNat < 2 ^ 31) :
    ∃ q', Dividing a b.toNat (n + 1) q' (if (r - b).msb then r else r - b).toNat
      (if (r - b).msb then md <<< 1 else md <<< 1 + 1).toNat := by
  obtain ⟨hdouble, hzero, hpair⟩ := h.shifted_bounds hn ha hr
  have hsign := msb_sub_iff_lt (r := r) hb (by omega)
  by_cases hlt : r.toNat < b.toNat
  · rw [if_pos (hsign.2 hlt), if_pos (hsign.2 hlt)]
    exact ⟨_, h.restore hpair hlt⟩
  · rw [if_neg (mt hsign.1 hlt), if_neg (mt hsign.1 hlt), BitVec.toNat_sub_of_le (by simpa [BitVec.le_def] using hlt),
      toNat_shiftLeft_one_add_one]
    exact ⟨_, h.subtract hpair hdouble (not_lt.1 hlt)⟩

end

/-- After `n` steps from `s` the remainder in `r` and MD are those of a division that has come as far. -/
def DivisionRun (r b : Reg) (s : State) (n : Nat) (u : State) : Prop :=
  ∃ acc md q, MdRun r s acc md u ∧ Dividing s.md.toNat (s.gpr b).toNat n q acc.toNat md.toNat

/-- Settles O39: each step makes one more quotient bit, and 32 of them fill MD. -/
theorem divisionRoutine : Obligations.DivisionRoutine := by
  intro s r b hrb hr hloads hclosed hsettled hmasked hrem hdividend hdivisor
  have hstart : DivisionRun r b s 0 s :=
    ⟨_, _, 0, State.StepsQuiet.mdRun ⟨hloads, hclosed, hsettled, hmasked⟩ r, by rw [hrem]; exact dividing_zero⟩
  obtain ⟨t, ht, acc, md, q, hrun, hdiv⟩ := completes_execAll_replicate
    (fun n u hn ⟨_, _, _, hu, hdiv⟩ => by
      obtain ⟨v, hv, hrun⟩ := hu.dstep hrb.symm hr rfl
      obtain ⟨q', hnext⟩ := hdiv.dstep hn hdividend rfl hdivisor
      exact ⟨v, hv, _, _, q', hrun, hnext⟩) (count := 32) (zero_add 32) hstart
  obtain ⟨hnonzero, hzero⟩ := hdiv.last md.isLt
  refine ⟨t, ht, fun hb => ?_, fun hb => ?_, hrun.gprs, hrun.psw, hrun.memory⟩
  · obtain ⟨hquot, hmod⟩ := hnonzero fun h0 => hb (BitVec.eq_of_toNat_eq h0)
    exact ⟨hrun.md.trans (BitVec.eq_of_toNat_eq hquot), hrun.acc.trans (BitVec.eq_of_toNat_eq hmod)⟩
  · obtain ⟨hquot, hmod⟩ := hzero (by rw [hb]; rfl)
    exact ⟨hrun.md.trans (BitVec.eq_of_toNat_eq hquot), hrun.acc.trans (BitVec.eq_of_toNat_eq hmod)⟩

end Sys2Proof.Machine

/-! The exceptions and the shadows they leave: the interrupt at a step boundary and its return, the chain that `trap`
freezes, the window of hazardous reads, and step instructions on an MD that has not settled (rules R138, R220, R310 to
R323, R351, R355, R357). -/

namespace Sys2Proof.Machine

/-! ### The interrupt at a step boundary (rules R310, R314, R320) -/

section
variable {s : State}

theorem interruptTaken_iff : s.interruptTaken = true ↔ s.irqNow = true ∧ s.psw.cur.M = false := by
  simp [State.interruptTaken, and_comm]

theorem step_interrupt (h : s.interruptTaken = true) : step s = .next (s.enterException .interrupt) := if_pos h

theorem step_uninterrupted (h : s.interruptTaken = false) :
    step s = if s.pc.squashed then .next s.skipSquashed else s.runWord s.fetch :=
  if_neg (Bool.eq_false_iff.1 h)

end

/-- Settles O10, by the two sides of the line's and the mask's test. -/
theorem interruptComesFirst : Obligations.InterruptComesFirst := by
  intro s
  refine ⟨fun hirq hM => ?_, fun h => step_uninterrupted ?_⟩
  · exact ⟨_, step_interrupt (interruptTaken_iff.2 ⟨hirq, hM⟩), atHandler_enterException s _, rfl, rfl⟩
  · rw [← Bool.not_eq_true, interruptTaken_iff]
    rintro ⟨hirq, hM⟩
    simp [hirq, hM] at h

/-! ### The addresses that an entry saves (rules R138, R315, R316) -/

theorem QEntry.restart_unsquashed {q : QEntry} (h : q.squashed = false) : q.restart = q.addr := by
  simp [QEntry.restart, h]

/-- Settles O46: `trap` freezes the chain as it stands, and the invariant says what a refilled one holds. -/
theorem trapSavesItsPlace : Obligations.TrapSavesItsPlace := by
  rintro s t v ⟨hc1, hc2, hc3, -⟩ hk h
  cases h
  obtain ⟨-, -, ⟨hkept1, hkept2, hkept3, -⟩, -⟩ := atHandler_enterException s (.trap v)
  exact ⟨hkept1.trans (hc1 (by omega)), hkept2.trans (hc2 (by omega)), hkept3.trans (hc3 hk)⟩

/-- Settles O44: the interrupt saves the queue in the chain and PSWcurrent in PSWother, and the return sequence takes
both back. -/
theorem interruptThenReturn : Obligations.InterruptThenReturn := by
  intro s hk hS hpc hpc1 hpc2 hint
  refine ⟨_, step_interrupt hint, ?_⟩
  obtain ⟨-, ⟨hpsw, -⟩, hsaves, -, -, hgprs, hmd, hfprs, hmemory, hcops, -⟩ := atHandler_enterException s .interrupt
  obtain ⟨hc4, hc3, hc2⟩ := hsaves hk
  rw [QEntry.restart_unsquashed hpc] at hc4
  rw [QEntry.restart_unsquashed hpc1] at hc3
  rw [QEntry.restart_unsquashed hpc2] at hc2
  obtain ⟨t, ht, htpc, htpc1, htpc2, htpsw, htchain, htk, htgprs, htmd, htfprs, htmemory, htcops⟩ :=
    returnSequence (s.enterException .interrupt) rfl rfl hS rfl
  exact ⟨t, ht, by rw [htpc, hc4], by rw [htpc1, hc3], by rw [htpc2, hc2], by rw [htpsw, hpsw],
    by rw [htpc, hpsw], by rw [htpc1, hpsw], by rw [htpc2, hpsw], by rw [htchain, hc2], by rw [htchain, hc3],
    by rw [htchain, hc4], htk, hgprs.trans htgprs, Eq.trans htmd hmd, hfprs.trans htfprs, hmemory.trans htmemory,
    Eq.trans htcops hcops⟩

/-! ### The window of hazardous reads (rule R357) -/

theorem EntryWindow.advance_ne_first (w : EntryWindow) : w.advance ≠ .first := by
  cases w <;> decide

theorem Effect.window_retire {i : Instr} {s u : State} (h : Effect i s u) (a : After) :
    (u.retire a).window = s.window.advance := by
  rw [State.retire_window, h.kept]

/-- The two entries that open the window. -/
def OpensWindow (s t : State) : Prop := t = s.enterException .interrupt ∨ t = s.enterException .overflow

section
variable {s t : State}

theorem OpensWindow.window_first (h : OpensWindow s t) : t.window = .first := by
  obtain rfl | rfl := h
  · rfl
  · rfl

/-- A window that has counted down is not `.first`, so that no opening entry has left it. -/
theorem not_opensWindow_of_advance (h : t.window = s.window.advance) : ¬ OpensWindow s t := fun hopens =>
  s.window.advance_ne_first (h.symm.trans hopens.window_first)

theorem window_of_step (h : step s = .next t) : OpensWindow s t ∨ t.window = s.window.advance := by
  obtain ⟨i, u, a, heff, rfl⟩ | ⟨kind, rfl⟩ := step_retires_or_enters h
  · exact .inr (heff.window_retire a)
  · cases kind with
    | interrupt => exact .inl (.inl rfl)
    | overflow => exact .inl (.inr rfl)
    | trap v => exact .inr rfl

theorem window_of_exec {i : Instr} (h : exec i s = .next t) :
    t = s.enterException .overflow ∨ t.window = s.window.advance := by
  obtain ⟨u, a, heff, rfl⟩ | ⟨kind, hkind, rfl⟩ := exec_answers i s t h
  · exact .inr (heff.window_retire a)
  · cases kind with
    | interrupt => exact absurd rfl hkind
    | overflow => exact .inl rfl
    | trap v => exact .inr rfl

end

/-- Settles O14: an entry that opens the window is told from every other step by the window it leaves. -/
theorem entryWindowCountsDown : Obligations.EntryWindowCountsDown := by
  intro s t
  refine ⟨fun h => ?_, step_interrupt, fun i h hwindow => ?_, fun v h => ?_⟩
  · obtain hopens | hadvance := window_of_step h
    · exact hopens.window_first.trans (if_pos hopens).symm
    · exact hadvance.trans (if_neg (not_opensWindow_of_advance hadvance)).symm
  · obtain rfl := (window_of_exec h).resolve_right hwindow
    exact atHandler_enterException s _
  · cases h
    rfl

/-! ### An MD that has not settled (rules R220, R355, R357) -/

section
variable {s : State}

theorem mdUnsettled_iff : s.mdUnsettled = true ↔ s.mdMoved = true ∨ s.window = .first := by
  simp [State.mdUnsettled]

theorem mdSeen_unsettled (h : s.mdUnsettled = true) : s.mdSeen = Config.draw s.tick .mdIn := by
  simp [State.mdSeen, h]

/-- `movfrs md` reads MD wherever the window is not at its first instruction, whether MD has settled or not. -/
theorem gpr_of_movfrs_md (d : Reg) (h : s.window ≠ .first) :
    ∃ u, exec (.movfrs .md d) s = .next u ∧ u.gpr d = if d = 0 then 0 else s.md := by
  obtain ⟨-, hread, -⟩ := movfrsReads s d
  obtain ⟨u, hu, ⟨hd, -⟩, -⟩ := hread h
  exact ⟨u, hu, hd⟩

end

/-- Settles O37, from what the step instructions and `movfrs md` do on any MD. -/
theorem unsettledMdGivesDraws : Obligations.UnsettledMdGivesDraws := by
  intro s a b d
  refine ⟨fun m hopen hm => ?_, fun hfirst => ?_, fun t ht => ?_⟩
  · have hunsettled := mdUnsettled_iff.2 hopen
    have hseen := (mdSeen_unsettled hunsettled).trans hm.symm
    refine ⟨?_, ?_, ?_⟩
    · simpa only [hunsettled, hseen, if_pos] using mstart_stepsOrTraps s b d
    · simpa only [hunsettled, hseen, if_pos] using mstep_stepsOrTraps s a b d
    · simpa only [hunsettled, hseen, if_pos] using dstep_stepsOrTraps s a b d rfl
  · obtain ⟨-, -, hdraw, -⟩ := movfrsReads s d
    exact hdraw hfirst
  · cases ht
    exact ⟨rfl, gpr_of_movfrs_md d⟩

end Sys2Proof.Machine
